-- ==== Sys2Proof/Word.lean ====
section
/-! DEFINITION. The word types of the converter: what 00_scope.md R8 calls bytes, commands, the RGB565 word and the issue word. All values are unsigned. -/

namespace Sys2Proof

/-- A channel, a memory byte or a result register: exactly 8 bits (R8). -/
abbrev Byte := BitVec 8

/-- An RGB565 word, and the view `RES_WORD`: 16 bits (R8, R29). -/
abbrev Word := BitVec 16

/-- A value of the command port `cmd[1:0]` (R23). -/
abbrev Cmd := BitVec 2

/-- The 34-bit issue word: notation for one step's command and pixel ports (30_encoding.md, R60). -/
abbrev IssueWord := BitVec 34

end Sys2Proof
end

