-- ==== Sys2Proof/Config.lean ====
section
/-! DEFINITION. What an implementation fixes: the parameters of 00_scope.md R6 with this hardware's values, the names of the memory spaces, registers and ports, and the OPEN parameters of 92_eei_decisions.md as the fields of a platform. -/

namespace Sys2Proof

/-- The three memory spaces (20_memory.md R40). -/
inductive Space where
  | frame
  | packed
  | preview
deriving DecidableEq, Repr

/-- Everything the spec gives a register's name to (10_state.md R26 to R31): the six result registers, the view
`RES_WORD`, the two status outputs, and the hidden `IDX` and `FAULT`. -/
inductive Reg where
  | resB0
  | resB1
  | resQR
  | resQG
  | resQB
  | resQA
  | resWord
  | busy
  | done
  | idx
  | fault
deriving DecidableEq, Repr

/-- The input ports (R23 to R25). -/
inductive Port where
  | rst
  | cmd
  | pixR
  | pixG
  | pixB
  | pixA
deriving DecidableEq, Repr

/-- The parameters of R6 that have a value on this hardware, as a host could try to change them at run time (R7, D25). -/
inductive Parameter where
  | width
  | height
  | idxBits
deriving DecidableEq, Repr

/-- The parameters of R6 a model may take as arguments. -/
structure Geometry where
  width   : Nat
  height  : Nat
  idxBits : Nat
deriving DecidableEq, Repr

/-- `PIXELS = WIDTH*HEIGHT` (R6). -/
def Geometry.pixels (g : Geometry) : Nat := g.width * g.height

/-- This hardware: 160 x 128 with a 15-bit index (R6, R7). -/
def Config.hardware : Geometry := ⟨160, 128, 15⟩

/-- `WIDTH` (R6). -/
def Config.width : Nat := Config.hardware.width

/-- `HEIGHT` (R6). -/
def Config.height : Nat := Config.hardware.height

/-- `IDX_BITS` (R6). -/
def Config.idxBits : Nat := Config.hardware.idxBits

/-- `PIXELS` (R6; 90_conflicts.md C2: 20480, not 25600). -/
def Config.pixels : Nat := Config.hardware.pixels

/-- `CHANNEL_BITS` (R6). -/
def Config.channelBits : Nat := 8

/-- `CHANNELS` of a FRAME or PREVIEW pixel: R, G, B, A (R6). -/
def Config.channels : Nat := 4

/-- `FRAME_BYTES` (R6). -/
def Config.frameBytes : Nat := Config.channels * Config.pixels

/-- `PACKED_BYTES` (R6). -/
def Config.packedBytes : Nat := 2 * Config.pixels

/-- `PREVIEW_BYTES` (R6). -/
def Config.previewBytes : Nat := Config.channels * Config.pixels

theorem Config.pixels_eq : Config.pixels = 20480 := rfl

theorem Config.pixels_pos : 0 < Config.pixels := by decide

/-- The pixel index 0, which `CONVERT_FRAME` and reset put into `IDX` (R34, R90). -/
def Config.firstPixel : Fin Config.pixels := ⟨0, Config.pixels_pos⟩

@[simp] theorem Config.firstPixel_val : Config.firstPixel.val = 0 := rfl

/-- Where a platform places the three spaces in one shared address space: the OPEN parameters `FRAME_BASE`,
`PACKED_BASE` and `PREVIEW_BASE` (R50). -/
structure Placement where
  frameBase   : Nat
  packedBase  : Nat
  previewBase : Nat
deriving DecidableEq, Repr

/-- What a platform fixes around the block: every OPEN parameter of 92_eei_decisions.md. No rule of the block depends
on one of them (R6, R104, R130), so no command's meaning takes a platform. -/
structure Platform where
  /-- `CYCLES_PER_STEP`, at least 1. -/
  cyclesPerStep : Nat
  /-- `REG_MAP`: bus addresses of ports and registers, if any. -/
  regMap        : List ((Port ⊕ Reg) × Nat)
  /-- `FRAME_BASE`, `PACKED_BASE`, `PREVIEW_BASE`, if the spaces share an address space. -/
  placement     : Option Placement
  /-- `DONE_IRQ`: whether the platform wires DONE to an interrupt. -/
  doneIrq       : Bool
deriving DecidableEq, Repr

end Sys2Proof
end

