-- ==== Sys2Proof/Syntax.lean ====
section
/-! DEFINITION. The commands: one constructor per row of spec/opcode_table.json, and the port values of one step. -/

namespace Sys2Proof

/-- The commands of the command port (30_encoding.md R60). The pixel port is an operand of `CONVERT_PIXEL` alone (R24);
its alpha is sampled and ignored (R77), so it stands in the syntax and no meaning reads it. The reserved code `0b11`
is no command (R66), and the reset step is no command but the input `rst` (R120). -/
inductive Instr where
  /-- `NOP`, 40_pixel.md R84. -/
  | nop
  /-- `CONVERT_PIXEL`, 40_pixel.md R85. -/
  | convertPixel (r g b a : Byte)
  /-- `CONVERT_FRAME`, 41_frame.md R90. -/
  | convertFrame
deriving DecidableEq, Repr

/-- What the host drives on the input ports for one step (10_state.md R23, R24, R25). -/
structure Ports where
  rst  : Bool
  cmd  : Cmd
  pixR : Byte
  pixG : Byte
  pixB : Byte
  pixA : Byte
deriving DecidableEq, Repr

end Sys2Proof
end

