-- ==== Sys2Proof/Machine/HostMoves.lean ====
section
/-! DEFINITION. What the host can do (60_exceptions.md R115, R118): drive the ports for one step, access a byte, read a register, and the moves the spec names only to refuse them. Also what a read hands back. -/

namespace Sys2Proof.Machine

/-- The two kinds of host access (R102). -/
inductive AccessKind where
  | read
  | write
deriving DecidableEq, Repr

/-- One action of the host, between which the block takes no step of its own (R106, R115). -/
inductive HostMove where
  /-- The host drives the ports and the block takes one step (R83). -/
  | drive (p : Ports)
  /-- `HREAD S, addr` (R68, R118). -/
  | read (space : Space) (addr : Nat)
  /-- `HWRITE S, addr, v` (R68, R118). -/
  | write (space : Space) (addr : Nat) (v : Byte)
  /-- `HREAD` of a register or status output (R35, R68). -/
  | readReg (r : Reg)
  /-- Teardown: the host frees a buffer (70_reset_and_hazards.md R121). -/
  | release (space : Space)
  /-- A host write to a register: no move of the source's host, refused (R35, D25). -/
  | writeReg (r : Reg) (v : Word)
  /-- A run-time change of a parameter: no move of the source's host, refused (R7, D25). -/
  | setParameter (p : Parameter) (v : Nat)
deriving DecidableEq, Repr

/-- What a host read hands back: a byte of memory or a result register, the word `RES_WORD`, or a status bit (R115). -/
inductive HostData where
  | byte (v : Byte)
  | word (v : Word)
  | bit (v : Bool)
deriving DecidableEq, Repr

end Sys2Proof.Machine
end

