-- ==== Sys2Proof/WellFormed.lean ====
section
/-! DEFINITION. Which terms the spec admits. Every command is well formed, since every port value is legal (R61, R112); the checks that refuse something are on host moves, on parameters and on a platform. -/

namespace Sys2Proof

/-- Every command is well formed: "Every value 0x00..0xFF of every channel is valid" (R61). -/
def Instr.wellFormed : Instr → Bool
  | .nop => true
  | .convertPixel _ _ _ _ => true
  | .convertFrame => true

/-- R6's constraint on the parameters: `WIDTH >= 1`, `HEIGHT >= 1`, `PIXELS <= 2^IDX_BITS`. -/
def Geometry.wellFormed (g : Geometry) : Bool :=
  decide (1 ≤ g.width) && decide (1 ≤ g.height) && decide (g.pixels ≤ 2 ^ g.idxBits)

/-- Two ranges of addresses, each a base and a size, share no address. -/
def rangesApart (base size base' size' : Nat) : Bool :=
  decide (base + size ≤ base') || decide (base' + size' ≤ base)

/-- R50: the three ranges of a placement must not overlap. -/
def Placement.wellFormed (p : Placement) : Bool :=
  rangesApart p.frameBase Config.frameBytes p.packedBase Config.packedBytes &&
  rangesApart p.frameBase Config.frameBytes p.previewBase Config.previewBytes &&
  rangesApart p.packedBase Config.packedBytes p.previewBase Config.previewBytes

/-- A platform the model accepts: at least one cycle per step, and no overlapping placement (R50, D25). -/
def Platform.wellFormed (p : Platform) : Bool :=
  decide (1 ≤ p.cyclesPerStep) && p.placement.all Placement.wellFormed

/-- The registers the host can never read: `IDX` (R30) and `FAULT` (R31). -/
def Reg.hidden : Reg → Bool
  | .idx => true
  | .fault => true
  | _ => false

/-- The moves R115 gives the host. A write to a register, a read of a hidden one and a change of a parameter are no
moves of the host (R35, D25). -/
def Machine.HostMove.wellFormed : Machine.HostMove → Bool
  | .drive _ => true
  | .read _ _ => true
  | .write _ _ _ => true
  | .readReg r => !r.hidden
  | .release _ => true
  | .writeReg _ _ => false
  | .setParameter _ _ => false

end Sys2Proof
end

