-- ==== Sys2Proof/Decode.lean ====
section
/-! DEFINITION. Decoding the command port (30_encoding.md R60), total on every port value and rejecting the reserved code by name; the issue word as the notation for port values; and the encoder. -/

namespace Sys2Proof

/-- Why a command does not decode. -/
inductive DecodeError where
  /-- `cmd = 0b11` is reserved (R66). -/
  | reservedCommand (cmd : Cmd)
deriving DecidableEq, Repr

/-- The port values an issue word stands for, in a step without reset (the table of fields under R60). -/
def Ports.ofIssueWord (w : IssueWord) : Ports where
  rst := false
  cmd := w.extractLsb' 32 2
  pixR := w.extractLsb' 24 8
  pixG := w.extractLsb' 16 8
  pixB := w.extractLsb' 8 8
  pixA := w.extractLsb' 0 8

/-- The issue word of a step's command and pixel ports. -/
def Ports.issueWord (p : Ports) : IssueWord :=
  p.cmd ++ p.pixR ++ p.pixG ++ p.pixB ++ p.pixA

/-- R60: the command the ports carry. The pixel port never changes which command it is (R67). -/
def decodePorts (p : Ports) : Except DecodeError Instr :=
  if p.cmd = 0b00#2 then .ok .nop
  else if p.cmd = 0b01#2 then .ok (.convertPixel p.pixR p.pixG p.pixB p.pixA)
  else if p.cmd = 0b10#2 then .ok .convertFrame
  else .error (.reservedCommand p.cmd)

/-- The command an issue word stands for. -/
def decode (w : IssueWord) : Except DecodeError Instr :=
  decodePorts (Ports.ofIssueWord w)

/-- The command code of an instruction (R60). -/
def Instr.cmd : Instr → Cmd
  | .nop => 0b00#2
  | .convertPixel _ _ _ _ => 0b01#2
  | .convertFrame => 0b10#2

/-- The ports a host drives to issue a command; pixel-port bits the command ignores are written as 0 (95_test_vectors.md,
Notation). -/
def Instr.ports (i : Instr) : Ports :=
  match i with
  | .nop => ⟨false, i.cmd, 0, 0, 0, 0⟩
  | .convertPixel r g b a => ⟨false, i.cmd, r, g, b, a⟩
  | .convertFrame => ⟨false, i.cmd, 0, 0, 0, 0⟩

/-- The issue word of a command. -/
def encode (i : Instr) : IssueWord := i.ports.issueWord

/-- The issue word in a number that gives `nbits` bits of it, numbered as spec/opcode_table.json numbers them. An issue
word has 34 bits: what a whole number of bytes has above them is no bit of it. -/
def tableWord (nbits w : Nat) : IssueWord := BitVec.ofNat 34 (w % 2 ^ nbits)

/-- What the decoder reads from a row's word of spec/opcode_table.json. -/
def decodeTableWord (nbits w : Nat) : Option Instr :=
  match decode (tableWord nbits w) with
  | .ok i => some i
  | .error _ => none

end Sys2Proof
end

