-- ==== Sys2Proof/Machine/State.lean ====
section
/-! DEFINITION. The state of the machine (10_state.md R33), the faults it records, the outcomes of the model, and the state at power-on. -/

namespace Sys2Proof.Machine

/-- The causes of 60_exceptions.md R101, and no other. -/
inductive FaultCause where
  | illegalCmd
  | busyCmd
  | unwrittenRead
  | hostHazard
  | hostRange
deriving DecidableEq, Repr

/-- What a fault records beside its cause (R102). -/
inductive FaultInfo where
  /-- `ILLEGAL_CMD`, `BUSY_CMD`: the sampled command. -/
  | cmd (c : Cmd)
  /-- `UNWRITTEN_READ` of a memory byte and `HOST_RANGE`: the space and the address. -/
  | byte (space : Space) (addr : Nat)
  /-- `UNWRITTEN_READ` of a result register: its name. -/
  | register (r : Reg)
  /-- `HOST_HAZARD`: the space, the address and whether the access was a read or a write. -/
  | access (space : Space) (addr : Nat) (kind : AccessKind)
  /-- `HOST_HAZARD` of a teardown (R121): the space freed. R102 speaks of an access and a teardown is none, so no
  address and no kind is recorded (DESIGN CHOICE, log 10; safe). -/
  | buffer (space : Space)
deriving DecidableEq, Repr

/-- The content of `FAULT` when it is not none (R31). -/
structure FaultRecord where
  cause : FaultCause
  info  : FaultInfo
deriving DecidableEq, Repr

/-- A memory space: the bytes that hold a value, as (address, byte) pairs, addresses strictly rising. An address not
listed holds *no value* (R32, R48). -/
abbrev Memory := List Host.Cell

/-- The complete state (R33), and two fields of the model's own. -/
structure State where
  resB0   : Option Byte
  resB1   : Option Byte
  resQR   : Option Byte
  resQG   : Option Byte
  resQB   : Option Byte
  resQA   : Option Byte
  busy    : Bool
  done    : Bool
  idx     : Fin Config.pixels
  fault   : Option FaultRecord
  frame   : Memory
  packed  : Memory
  preview : Memory
  /-- The model's own: the host moves still to come, the next one first (DESIGN CHOICE, log 1; safe). -/
  moves   : List HostMove
  /-- The model's own: what the latest move handed back to the host (DESIGN CHOICE, log 6; safe). -/
  answer  : Option HostData
deriving DecidableEq, Repr

/-- Where the machine stops. A fault of the spec (R101) is NOT one of these: its entry is described by R107 and is a
next state with `FAULT` set. -/
inductive Fault where
  /-- Raised by the block's memory primitives (`blockRead`, `blockWrite`) for an address at which the space has no
  byte. Safe: the machine stops. R97 says that no block access is one, and the model's statements say so too. -/
  | outsideSpace (space : Space) (addr : Nat)
deriving DecidableEq, Repr

/-- What has no transition. -/
inductive Refusal where
  /-- Raised by an arm of `exec` for a command without a meaning: none at present. Safe: the machine stops. -/
  | notModelled (mnemonic : String)
  /-- Raised by `hostWriteReg`: "A host write to any of them has no meaning, and the model refuses it" (R35). Safe. -/
  | registerWrite (r : Reg)
  /-- Raised by `hostReadReg` for `IDX` and `FAULT`, which no host read reaches (R30, R31). Safe. -/
  | hiddenRegister (r : Reg)
  /-- Raised by `hostSetParameter`: the parameters of R6 do not change at run time (R7, D25). Safe. -/
  | fixedParameter (p : Parameter)
  /-- Raised by `hostRelease` while `BUSY = 0`: "Allocation and freeing are host actions outside the model" (R121).
  Safe. -/
  | bufferReleased (space : Space)
deriving DecidableEq, Repr

/-- What a step, a command or a host move answers. -/
abbrev Out := Host.Outcome State Fault Refusal

/-- Power-on: the values of R34, every byte of the three memories without a value, and no host move given yet. -/
def State.reset : State where
  resB0 := none
  resB1 := none
  resQR := none
  resQG := none
  resQB := none
  resQA := none
  busy := false
  done := false
  idx := Config.firstPixel
  fault := none
  frame := []
  packed := []
  preview := []
  moves := []
  answer := none

end Sys2Proof.Machine
end

