-- ==== Sys2Proof/Machine/Ops.lean ====
section
/-! DEFINITION. The named operations over memory, registers and faults: reading and writing a byte, the block's memory primitives (00_scope.md R10), raising a fault (R11, R107), the guards of a step (40_pixel.md R83) and the reset step (70_reset_and_hazards.md R120). -/

namespace Sys2Proof.Machine

/-! ## Memory -/

/-- The canonical form: addresses strictly rising. (An entry always holds a value, and an unlisted address holds none,
so no entry can repeat what an unlisted address reads as.) -/
abbrev Memory.wf (m : Memory) : Prop := m.Pairwise fun c d => c.1 < d.1

/-- Every listed address is one of the `size` addresses of a space (R40). -/
abbrev Memory.within (m : Memory) (size : Nat) : Prop := ∀ c ∈ m, c.1 < size

/-- The byte at an address, or *no value* (R48). -/
def Memory.read : Memory → Nat → Option Byte
  | [], _ => none
  | (k, v) :: m, a => if k = a then some v else Memory.read m a

/-- Give the byte at an address a value, keeping the addresses rising. -/
def Memory.write : Memory → Nat → Byte → Memory
  | [], a, v => [(a, v)]
  | (k, w) :: m, a, v =>
    if a < k then (a, v) :: (k, w) :: m
    else if k = a then (a, v) :: m
    else (k, w) :: Memory.write m a v

/-- The size of a space in bytes (R40). -/
def spaceSize : Space → Nat
  | .frame => Config.frameBytes
  | .packed => Config.packedBytes
  | .preview => Config.previewBytes

/-- The contents of a space. -/
def State.mem (s : State) : Space → Memory
  | .frame => s.frame
  | .packed => s.packed
  | .preview => s.preview

/-- Replace the contents of one space; the three are separate (R50). -/
def State.setMem (s : State) (space : Space) (m : Memory) : State :=
  match space with
  | .frame => { s with frame := m }
  | .packed => { s with packed := m }
  | .preview => { s with preview := m }

/-- The byte at an address of a space, or *no value*. -/
def State.readByte (s : State) (space : Space) (a : Nat) : Option Byte := (s.mem space).read a

/-- Give the byte at an address of a space a value. -/
def State.writeByte (s : State) (space : Space) (a : Nat) (v : Byte) : State :=
  s.setMem space ((s.mem space).write a v)

/-! ## Layout of the spaces -/

/-- The address of channel `c` of pixel `i` in FRAME and in PREVIEW: R at +0, G at +1, B at +2, A at +3 (R41, R43). -/
def channelAddr (i c : Nat) : Nat := 4 * i + c

/-- The address of packed byte `k` of pixel `i` in PACKED: byte0 at `2*i`, byte1 at `2*i + 1` (R42, R45). -/
def packedAddr (i k : Nat) : Nat := 2 * i + k

/-- Row-major pixel index of column `x`, row `y` (R44; the formula is the spec's own general knowledge, log 18). -/
def pixelIndex (x y : Nat) : Nat := y * Config.width + x

/-! ## Faults -/

/-- `raise Fault(cause, info)`: writes `FAULT` and nothing else (R11, R107). The record holds at most one fault and is
cleared by reset alone (R31, R109), so a record already there stays (log 5). -/
def State.raise (s : State) (cause : FaultCause) (info : FaultInfo) : State :=
  { s with fault := match s.fault with
    | none => some ⟨cause, info⟩
    | some f => some f }

/-- The code of a cause (R101). -/
def FaultCause.code : FaultCause → Nat
  | .illegalCmd => 1
  | .busyCmd => 2
  | .unwrittenRead => 3
  | .hostHazard => 4
  | .hostRange => 5

/-- Go on only where no fault is recorded: otherwise the block takes no step, and its state stays (R83, R109; log 4). -/
def unlessFaulted (s : State) (k : Out) : Out :=
  match s.fault with
  | some _ => .next s
  | none => k

/-- Go on only while `BUSY = 0`: otherwise the command raises `BUSY_CMD` (R83, R101). -/
def unlessBusy (s : State) (cmd : Cmd) (k : Out) : Out :=
  if s.busy then .next (s.raise .busyCmd (.cmd cmd)) else k

/-! ## The block's memory primitives -/

/-- `MemRead(S, a, 1)` (R10): go on with the byte, or raise `UNWRITTEN_READ` (R48). -/
def blockRead (s : State) (space : Space) (a : Nat) (k : Byte → Out) : Out :=
  if a < spaceSize space then
    match s.readByte space a with
    | some v => k v
    | none => .next (s.raise .unwrittenRead (.byte space a))
  else .fault (.outsideSpace space a)

/-- `MemWrite(S, a, 1, v)` (R10): go on with the byte written. -/
def blockWrite (s : State) (space : Space) (a : Nat) (v : Byte) (k : State → Out) : Out :=
  if a < spaceSize space then k (s.writeByte space a v)
  else .fault (.outsideSpace space a)

/-! ## Reset, host moves -/

/-- The reset step (R120): legal in every state; `PACKED` and `PREVIEW` lose their values only when it ends a frame
(R123, R124). -/
def State.resetStep (s : State) : State :=
  { s with
    resB0 := none
    resB1 := none
    resQR := none
    resQG := none
    resQB := none
    resQA := none
    busy := false
    done := false
    idx := Config.firstPixel
    fault := none
    packed := if s.busy then [] else s.packed
    preview := if s.busy then [] else s.preview }

/-- The host's next move is taken: the moves after it are still to come, and nothing is handed back yet. -/
def State.takeMove (s : State) (rest : List HostMove) : State :=
  { s with moves := rest, answer := none }

/-- A value is handed back to the host. -/
def State.giveBack (s : State) (d : HostData) : State :=
  { s with answer := some d }

/-- `DONE` goes from 0 to 1 between two states: the source of the interrupt, where a platform routes `DONE` to one
(R104, log 21). -/
def doneRises (before after : State) : Bool := !before.done && after.done

end Sys2Proof.Machine
end

