-- ==== Sys2Proof/Machine/Operands.lean ====
section
/-! DEFINITION. The pixel functions of 40_pixel.md (R70 to R76, R81), and the two operand forms: the pixel port and a FRAME pixel (30_encoding.md section 3). -/

namespace Sys2Proof.Machine

/-- Quantized red: `R & 0xF8` (R70). -/
def quantR (r : Byte) : Byte := r &&& 0xF8#8

/-- Quantized green: `G & 0xFC` (R71). -/
def quantG (g : Byte) : Byte := g &&& 0xFC#8

/-- Quantized blue: `B & 0xF8` (R72). -/
def quantB (b : Byte) : Byte := b &&& 0xF8#8

/-- Quantized alpha: 0x00 for every input (R73). -/
def quantA : Byte := 0x00#8

/-- Packed byte0: `(R & 0xF8) | (G >> 5)` (R62, R74). -/
def packB0 (r g : Byte) : Byte := (r &&& 0xF8#8) ||| (g >>> 5)

/-- Packed byte1: `((G & 0x1C) << 3) | (B >> 3)` (R63, R75). -/
def packB1 (g b : Byte) : Byte := ((g &&& 0x1C#8) <<< 3) ||| (b >>> 3)

/-- The RGB565 word: byte0 in the high bits (R64, R76). -/
def packWord (r g b : Byte) : Word := packB0 r g ++ packB1 g b

/-- R81's reading of unpacking: a law for testing, no operation of the block. -/
def unpack (byte0 byte1 : Byte) : Byte × Byte × Byte :=
  (byte0 &&& 0xF8#8,
   ((byte0 &&& 0x07#8) <<< 5) ||| ((byte1 &&& 0xE0#8) >>> 3),
   (byte1 &&& 0x1F#8) <<< 3)

/-- The six result registers after a conversion of the pixel port (R26, R85). -/
def State.setResults (s : State) (r g b : Byte) : State :=
  { s with
    resB0 := some (packB0 r g)
    resB1 := some (packB1 g b)
    resQR := some (quantR r)
    resQG := some (quantG g)
    resQB := some (quantB b)
    resQA := some quantA }

/-- `RES_WORD = RES_B0 : RES_B1`, without a value whenever one of the two is (R29). -/
def State.resWord (s : State) : Option Word :=
  match s.resB0, s.resB1 with
  | some hi, some lo => some (hi ++ lo)
  | _, _ => none

/-- The FRAME operand of a frame step: R, then G, then B of pixel `i`; the A byte is not read (R91). -/
def readPixel (s : State) (i : Nat) (k : Byte → Byte → Byte → Out) : Out :=
  blockRead s .frame (channelAddr i 0) fun r =>
  blockRead s .frame (channelAddr i 1) fun g =>
  blockRead s .frame (channelAddr i 2) fun b => k r g b

/-- The six byte writes of a frame step for pixel `i` (R91). -/
def writePixel (s : State) (i : Nat) (r g b : Byte) (k : State → Out) : Out :=
  blockWrite s .packed (packedAddr i 0) (packB0 r g) fun s =>
  blockWrite s .packed (packedAddr i 1) (packB1 g b) fun s =>
  blockWrite s .preview (channelAddr i 0) (quantR r) fun s =>
  blockWrite s .preview (channelAddr i 1) (quantG g) fun s =>
  blockWrite s .preview (channelAddr i 2) (quantB b) fun s =>
  blockWrite s .preview (channelAddr i 3) quantA k

end Sys2Proof.Machine
end

