-- ==== Sys2Proof/Machine/Flags.lean ====
section
/-! DEFINITION. What the commands do to BUSY, DONE and IDX. The block has no condition codes (10_state.md R22): these status outputs are all it has. -/

namespace Sys2Proof.Machine

/-- A frame is accepted: `BUSY <- 1; DONE <- 0; IDX <- 0` (41_frame.md R90). -/
def State.beginFrame (s : State) : State :=
  { s with busy := true, done := false, idx := Config.firstPixel }

/-- The pixel `IDX` is converted: the last one ends the frame and leaves `IDX` (R92), any other increments it (R91). -/
def State.endPixel (s : State) : State :=
  if h : s.idx.val + 1 < Config.pixels then { s with idx := ⟨s.idx.val + 1, h⟩ }
  else { s with busy := false, done := true }

end Sys2Proof.Machine
end

