-- ==== Sys2Proof/Machine/Frame.lean ====
section
/-! DEFINITION. The frame stage (41_frame.md): CONVERT_FRAME and the frame step. -/

namespace Sys2Proof.Machine

/-- The frame step: convert pixel `IDX` (R91). All reads come before any write, so a step whose read faults writes
nothing. -/
def frameStep (s : State) : Out :=
  readPixel s s.idx.val fun r g b =>
  writePixel s s.idx.val r g b fun t => .next t.endPixel

/-- `CONVERT_FRAME` (R90): starts a frame and touches no memory. -/
def execConvertFrame (s : State) : Out :=
  unlessFaulted s (unlessBusy s 0b10#2 (.next s.beginFrame))

end Sys2Proof.Machine
end

