-- ==== Sys2Proof/Machine/Pixel.lean ====
section
/-! DEFINITION. NOP and CONVERT_PIXEL (40_pixel.md R84, R85). -/

namespace Sys2Proof.Machine

/-- `NOP` (R84): the frame step while `BUSY = 1`, nothing while `BUSY = 0`. -/
def execNop (s : State) : Out :=
  unlessFaulted s (if s.busy then frameStep s else .next s)

/-- `CONVERT_PIXEL` (R85): the six result registers, and no memory. The alpha is ignored (R77). -/
def execConvertPixel (r g b _a : Byte) (s : State) : Out :=
  unlessFaulted s (unlessBusy s 0b01#2 (.next (s.setResults r g b)))

end Sys2Proof.Machine
end

