-- ==== Sys2Proof/Machine/Dispatch.lean ====
section
/-! DEFINITION. One arm per command of spec/opcode_table.json. -/

namespace Sys2Proof.Machine

/-- What a command does (40_pixel.md R83, the case on `cmd`). -/
def exec (i : Instr) (s : State) : Host.Outcome State Fault Refusal :=
  match i with
  | .nop => Sys2Proof.Machine.execNop s
  | .convertPixel r g b a => Sys2Proof.Machine.execConvertPixel r g b a s
  | .convertFrame => Sys2Proof.Machine.execConvertFrame s

end Sys2Proof.Machine
end

