-- ==== Sys2Proof/Machine/HostAccess.lean ====
section
/-! DEFINITION. What each host move does: one step of the block (40_pixel.md R83), and the host's accesses between steps (60_exceptions.md R115, R118; 10_state.md R35; 70_reset_and_hazards.md R121). -/

namespace Sys2Proof.Machine

/-- One step of the block, in the order of R83 and R105: reset first, then a recorded fault, then the reserved command,
then the command itself. -/
def blockStep (p : Ports) (s : State) : Out :=
  if p.rst then .next s.resetStep
  else
    match decodePorts p with
    | .ok i => exec i s
    | .error (.reservedCommand c) => unlessFaulted s (.next (s.raise .illegalCmd (.cmd c)))

/-- The accesses forbidden while `BUSY = 1`: a write to FRAME, and any access to PACKED or PREVIEW (R52, R118). -/
def hazardous : Space → AccessKind → Bool
  | .frame, .read => false
  | .frame, .write => true
  | .packed, _ => true
  | .preview, _ => true

/-- The checks of a host access in their order, before the byte is touched (R105, R118). -/
def hostAccess (s : State) (space : Space) (a : Nat) (kind : AccessKind) (k : Out) : Out :=
  if a < spaceSize space then
    if s.busy && hazardous space kind then .next (s.raise .hostHazard (.access space a kind))
    else k
  else .next (s.raise .hostRange (.byte space a))

/-- A host read of a byte (R118). -/
def hostRead (space : Space) (a : Nat) (s : State) : Out :=
  hostAccess s space a .read <|
    match s.readByte space a with
    | some v => .next (s.giveBack (.byte v))
    | none => .next (s.raise .unwrittenRead (.byte space a))

/-- A host write of a byte (R118). -/
def hostWrite (space : Space) (a : Nat) (v : Byte) (s : State) : Out :=
  hostAccess s space a .write (.next (s.writeByte space a v))

/-- What the host sees of a register: *no value* where it holds none (R26 to R29, R35). -/
def State.view (s : State) : Reg → Option HostData
  | .resB0 => s.resB0.map .byte
  | .resB1 => s.resB1.map .byte
  | .resQR => s.resQR.map .byte
  | .resQG => s.resQG.map .byte
  | .resQB => s.resQB.map .byte
  | .resQA => s.resQA.map .byte
  | .resWord => s.resWord.map .word
  | .busy => some (.bit s.busy)
  | .done => some (.bit s.done)
  | .idx => none
  | .fault => none

/-- A host read of a register: in any state (R35); without a value, `UNWRITTEN_READ` with the register's name (R26, R102;
for `RES_WORD` the name read, log 9). The hidden registers are reached by no host read (R30, R31). -/
def hostReadReg (r : Reg) (s : State) : Out :=
  if r.hidden then .refused (.hiddenRegister r)
  else
    match s.view r with
    | some d => .next (s.giveBack d)
    | none => .next (s.raise .unwrittenRead (.register r))

/-- A host write to a register: refused (R35, D25). -/
def hostWriteReg (r : Reg) (_v : Word) (_s : State) : Out := .refused (.registerWrite r)

/-- A change of a parameter at run time: refused (R7, D25). -/
def hostSetParameter (p : Parameter) (_v : Nat) (_s : State) : Out := .refused (.fixedParameter p)

/-- A teardown: `HOST_HAZARD` while `BUSY = 1`, outside the model otherwise (R121; log 10). -/
def hostRelease (space : Space) (s : State) : Out :=
  if s.busy then .next (s.raise .hostHazard (.buffer space))
  else .refused (.bufferReleased space)

/-- One move of the host. -/
def perform (m : HostMove) (s : State) : Out :=
  match m with
  | .drive p => blockStep p s
  | .read space a => hostRead space a s
  | .write space a v => hostWrite space a v s
  | .readReg r => hostReadReg r s
  | .release space => hostRelease space s
  | .writeReg r v => hostWriteReg r v s
  | .setParameter p v => hostSetParameter p v s

/-- The move that issues a command in a step without reset. -/
def issue (i : Instr) : HostMove := .drive i.ports

end Sys2Proof.Machine
end

