-- ==== Sys2Proof/Machine/Assembler.lean ====
section
/-! DEFINITION. The program notation of 30_encoding.md R68 and R69 as lists of host moves, and the placement of the spaces in a shared address space (20_memory.md R50). -/

namespace Sys2Proof.Machine

/-- `RESET`: a step with `rst = 1`, the command ignored (R68). -/
def asmReset : HostMove := .drive ⟨true, 0, 0, 0, 0, 0⟩

/-- `PIXEL r, g, b [, a]` (R68). -/
def asmPixel (r g b : Byte) (a : Byte := 0x00#8) : HostMove := issue (.convertPixel r g b a)

/-- `FRAME` (R68). -/
def asmFrame : HostMove := issue .convertFrame

/-- `NOP` (R68). -/
def asmNop : HostMove := issue .nop

/-- `n` rounds of the polling loop: a `NOP` step, then a read of `DONE` (R69). -/
def asmPoll : Nat → List HostMove
  | 0 => []
  | n + 1 => asmNop :: .readReg .done :: asmPoll n

/-- One round of the polling loop run from a state: the `NOP` step, then the read of `DONE`, whatever the host does
after them. -/
def pollRound (s : State) : Out :=
  match perform asmNop (s.takeMove s.moves) with
  | .next t => perform (.readReg .done) (t.takeMove t.moves)
  | .fault r => .fault r
  | .refused r => .refused r

/-- `WAIT` run from a state for at most so many rounds: the rounds up to the first that reads `DONE = 1` (R69). -/
def asmWaitWithin : Nat → State → Option (List HostMove)
  | 0, _ => none
  | n + 1, s =>
    match pollRound s with
    | .next t =>
      if t.answer = some (.bit true) then some (asmPoll 1)
      else (asmWaitWithin n t).map fun ms => asmNop :: .readReg .done :: ms
    | .fault _ => none
    | .refused _ => none

/-- `WAIT` as it expands at a state: `NOP` steps, each followed by a read of `DONE`, until that read gives 1 (R69). A frame
in flight ends within `PIXELS` rounds (R99), so where that many rounds do not read 1 the loop never ends, the hang of
R115, and there is no expansion (log 19). -/
def asmWait (s : State) : Option (List HostMove) := asmWaitWithin Config.pixels s

/-- `FILL S, v`: every address of the space in ascending order (R69). -/
def asmFill (space : Space) (v : Byte) : List HostMove :=
  (List.range (spaceSize space)).map fun a => .write space a v

/-- `LOADPIX i, r, g, b, a` (R69). -/
def asmLoadPix (i : Nat) (r g b a : Byte) : List HostMove :=
  [.write .frame (channelAddr i 0) r, .write .frame (channelAddr i 1) g,
   .write .frame (channelAddr i 2) b, .write .frame (channelAddr i 3) a]

/-- The base of a space in a shared address space (R50). -/
def placeBase (p : Placement) : Space → Nat
  | .frame => p.frameBase
  | .packed => p.packedBase
  | .preview => p.previewBase

/-- The shared address of a byte of a space. -/
def placeAddr (p : Placement) (space : Space) (a : Nat) : Nat := placeBase p space + a

/-- Whether a shared address lies in a space's range. -/
def placeHolds (p : Placement) (space : Space) (x : Nat) : Bool :=
  decide (placeBase p space ≤ x) && decide (x < placeBase p space + spaceSize space)

/-- The byte a shared address names, if it names one. -/
def locate (p : Placement) (x : Nat) : Option (Space × Nat) :=
  if placeHolds p .frame x then some (.frame, x - p.frameBase)
  else if placeHolds p .packed x then some (.packed, x - p.packedBase)
  else if placeHolds p .preview x then some (.preview, x - p.previewBase)
  else none

/-- "A model given overlapping ranges refuses the configuration" (R50). -/
def acceptPlatform (p : Platform) : Option Platform :=
  if p.wellFormed then some p else none

end Sys2Proof.Machine
end

