-- ==== Sys2Proof/Machine/Step.lean ====
section
/-! DEFINITION. One step of the machine: the next move of the host. With no move left nothing changes: the run has ended (70_reset_and_hazards.md R133) or the host has stopped stepping the block, "a hang, not a fault" (60_exceptions.md R115; log 3). -/

namespace Sys2Proof.Machine

/-- One step of the machine. -/
def step (s : State) : Host.Outcome State Fault Refusal :=
  match s.moves with
  | [] => .next s
  | m :: rest => perform m (s.takeMove rest)

/-- `s` with a row's word of spec/opcode_table.json as the very next thing the host drives on the ports, before every
move already there (log 2). -/
def State.withFetchWord (s : State) (nbits w : Nat) : State :=
  { s with moves := .drive (Ports.ofIssueWord (tableWord nbits w)) :: s.moves }

end Sys2Proof.Machine
end

