-- ==== Sys2Proof/Safety.lean ====
section
/-! DEFINITION. What counts as a safe run, in the terms the spec's claims use: the end of a run (70_reset_and_hazards.md R133), the launch premises (R134), the invariant of the machine and the progress of a frame (41_frame.md R93, R94). -/

namespace Sys2Proof.Machine

/-! ## End of a run and launch premises -/

/-- `noFault` (R134). -/
def NoFault (s : State) : Prop := s.fault = none

/-- `idle` (R134): nothing is in flight. -/
def Idle (s : State) : Prop := s.busy = false

/-- `frameLoaded` (R134): every R, G and B byte of FRAME holds a value. -/
def FrameLoaded (s : State) : Prop :=
  ∀ i c, i < Config.pixels → c < 3 → (s.readByte .frame (channelAddr i c)).isSome = true

/-- A state in which a run may end (R133): no fault, and no frame in flight. -/
def Final (s : State) : Prop := NoFault s ∧ Idle s

/-- What is observed at a final state (R133). -/
structure Observation where
  done    : Bool
  results : List (Option Byte)
  frame   : Memory
  packed  : Memory
  preview : Memory
deriving DecidableEq, Repr

/-- The observation at a final state; a faulted or a busy state has none (R133). -/
def observe (s : State) : Option Observation :=
  if s.fault = none ∧ s.busy = false then
    some ⟨s.done, [s.resB0, s.resB1, s.resQR, s.resQG, s.resQB, s.resQA], s.frame, s.packed, s.preview⟩
  else none

/-! ## The frame in progress -/

/-- The outputs of pixel `i` are those of the channel values `r`, `g`, `b` (R93's equations). -/
def OutputsAre (s : State) (i : Nat) (r g b : Byte) : Prop :=
  s.readByte .packed (packedAddr i 0) = some (packB0 r g) ∧
  s.readByte .packed (packedAddr i 1) = some (packB1 g b) ∧
  s.readByte .preview (channelAddr i 0) = some (quantR r) ∧
  s.readByte .preview (channelAddr i 1) = some (quantG g) ∧
  s.readByte .preview (channelAddr i 2) = some (quantB b) ∧
  s.readByte .preview (channelAddr i 3) = some quantA

/-- FRAME holds the channel values `r`, `g`, `b` for pixel `i` (R41). -/
def FrameHolds (s : State) (i : Nat) (r g b : Byte) : Prop :=
  s.readByte .frame (channelAddr i 0) = some r ∧
  s.readByte .frame (channelAddr i 1) = some g ∧
  s.readByte .frame (channelAddr i 2) = some b

/-- Pixel `i` is converted: its outputs are those of what FRAME holds for it (R93). -/
def PixelConverted (s : State) (i : Nat) : Prop :=
  ∃ r g b, FrameHolds s i r g b ∧ OutputsAre s i r g b

/-- While a frame is in flight, every pixel before `IDX` is converted (R93, R94). -/
def FrameProgress (s : State) : Prop :=
  s.busy = true → ∀ i, i < s.idx.val → PixelConverted s i

/-! ## Runs -/

/-- `n` steps, stopping where a step answers no next state (R133: a run is a finite sequence of moves). -/
def runSteps : Nat → State → Out
  | 0, s => .next s
  | n + 1, s =>
    match step s with
    | .next t => runSteps n t
    | .fault r => .fault r
    | .refused r => .refused r

/-- Whether a host move is a step of the block. -/
def HostMove.isStep : HostMove → Bool
  | .drive _ => true
  | _ => false

/-- How many steps of the block a schedule of host moves holds. -/
def blockSteps (ms : List HostMove) : Nat := ms.countP HostMove.isStep

/-- The moves of a host that lets a frame run: every step of the block among them is a `NOP` without reset. Between the
steps the host may do anything else (R99, R115). -/
def LetsRun (ms : List HostMove) : Prop := ∀ q, .drive q ∈ ms → q.rst = false ∧ q.cmd = 0b00#2

/-- R93's equations: every pixel of which `s` holds R, G and B in FRAME has its six output bytes in `t`. -/
def FrameResult (s t : State) : Prop :=
  ∀ i r g b, i < Config.pixels → FrameHolds s i r g b →
    t.readByte .packed (2 * i) = some ((r &&& 0xF8#8) ||| (g >>> 5)) ∧
    t.readByte .packed (2 * i + 1) = some (((g &&& 0x1C#8) <<< 3) ||| (b >>> 3)) ∧
    t.readByte .preview (4 * i) = some (r &&& 0xF8#8) ∧
    t.readByte .preview (4 * i + 1) = some (g &&& 0xFC#8) ∧
    t.readByte .preview (4 * i + 2) = some (b &&& 0xF8#8) ∧
    t.readByte .preview (4 * i + 3) = some 0x00#8

/-! ## What raises a fault -/

/-- The condition of a fault of R101, with the information of R102, for the move `m` in the state `s` before it. -/
def FaultCondition (s : State) (m : HostMove) (f : FaultRecord) : Prop :=
  match f.cause with
  | .illegalCmd =>
    ∃ p, m = .drive p ∧ p.rst = false ∧ p.cmd = 0b11#2 ∧ f.info = .cmd 0b11#2
  | .busyCmd =>
    ∃ p, m = .drive p ∧ p.rst = false ∧ s.busy = true ∧ (p.cmd = 0b01#2 ∨ p.cmd = 0b10#2) ∧ f.info = .cmd p.cmd
  | .unwrittenRead =>
    (∃ p c, m = .drive p ∧ p.rst = false ∧ p.cmd = 0b00#2 ∧ s.busy = true ∧ c < 3 ∧
      s.readByte .frame (4 * s.idx.val + c) = none ∧ f.info = .byte .frame (4 * s.idx.val + c)) ∨
    (∃ sp a, m = .read sp a ∧ a < spaceSize sp ∧ s.readByte sp a = none ∧ f.info = .byte sp a) ∨
    (∃ r, m = .readReg r ∧ r.hidden = false ∧ s.view r = none ∧ f.info = .register r)
  | .hostHazard =>
    s.busy = true ∧
    ((∃ sp a, m = .read sp a ∧ sp ≠ .frame ∧ a < spaceSize sp ∧ f.info = .access sp a .read) ∨
     (∃ sp a v, m = .write sp a v ∧ a < spaceSize sp ∧ f.info = .access sp a .write) ∨
     (∃ sp, m = .release sp ∧ f.info = .buffer sp))
  | .hostRange =>
    (∃ sp a, m = .read sp a ∧ spaceSize sp ≤ a ∧ f.info = .byte sp a) ∨
    (∃ sp a v, m = .write sp a v ∧ spaceSize sp ≤ a ∧ f.info = .byte sp a)

/-! ## The invariant of the machine -/

/-- A fault record that R101 and R102 describe, in a machine whose `BUSY` is `busy`; or one of the two whose information is
the model's own choice: an unwritten read of `RES_WORD` (log 9), a teardown (log 10). -/
def FaultRecord.consistent (busy : Bool) (f : FaultRecord) : Bool :=
  match f.cause, f.info with
  | .illegalCmd, .cmd c => decide (c = 0b11#2)
  | .busyCmd, .cmd c => busy && (decide (c = 0b01#2) || decide (c = 0b10#2))
  | .unwrittenRead, .byte space a => decide (a < spaceSize space)
  | .unwrittenRead, .register r => !r.hidden && decide (r ≠ .busy) && decide (r ≠ .done)
  | .hostHazard, .access space a kind => busy && decide (a < spaceSize space) && hazardous space kind
  | .hostHazard, .buffer _ => busy
  | .hostRange, .byte space a => decide (spaceSize space ≤ a)
  | _, _ => false

/-- No result register holds a value (R34). -/
def ResultsEmpty (s : State) : Prop :=
  s.resB0 = none ∧ s.resB1 = none ∧ s.resQR = none ∧ s.resQG = none ∧ s.resQB = none ∧ s.resQA = none

/-- The result registers hold the conversion of one pixel (R26). -/
def ResultsOf (s : State) (r g b : Byte) : Prop :=
  s.resB0 = some (packB0 r g) ∧ s.resB1 = some (packB1 g b) ∧ s.resQR = some (quantR r) ∧
  s.resQG = some (quantG g) ∧ s.resQB = some (quantB b) ∧ s.resQA = some quantA

/-- What holds at power-on and after every step: the memories are canonical and inside their spaces, `BUSY` and `DONE`
are never both 1 (R28), the result registers hold one pixel's conversion or nothing (R26), and a recorded fault is one
that R101 and R102 describe, or one of the model's own two records (log 9, log 10). -/
structure Inv (s : State) : Prop where
  frame_wf        : s.frame.wf
  packed_wf       : s.packed.wf
  preview_wf      : s.preview.wf
  frame_within    : s.frame.within Config.frameBytes
  packed_within   : s.packed.within Config.packedBytes
  preview_within  : s.preview.within Config.previewBytes
  not_busy_done   : ¬ (s.busy = true ∧ s.done = true)
  results         : ResultsEmpty s ∨ ∃ r g b, ResultsOf s r g b
  fault_described : ∀ f, s.fault = some f → f.consistent s.busy = true

end Sys2Proof.Machine
end

