-- ==== Sys2Proof/Certificates/Slice0/Obligations.lean ====
section
/-! DEFINITION. The statements for the provers, each with the rule of spec/ it formalises. OBLIGATIONS.json lists them. -/

open Sys2Proof Sys2Proof.Machine

/-! ## Encoding (30_encoding.md) -/

/-- Decoding the issue word of a well-formed command gives the command back, at every value of every channel. -/
def Obligations.DecodeOfEncodeIsTheCommand : Prop :=
  ∀ i : Instr, i.wellFormed = true → decode (encode i) = .ok i

/-- R60: the command is bits 33..32, the channels of CONVERT_PIXEL the four bytes below; `11` is refused by name, and a step
that samples it raises ILLEGAL_CMD; and `rst = 1` overrides `cmd`. -/
def Obligations.DecodeReadsCommandAndChannels : Prop :=
  (∀ w : IssueWord,
    (w.toNat / 2 ^ 32 = 0 → decode w = .ok .nop) ∧
    (w.toNat / 2 ^ 32 = 1 → decode w = .ok (.convertPixel (BitVec.ofNat 8 (w.toNat / 2 ^ 24))
      (BitVec.ofNat 8 (w.toNat / 2 ^ 16)) (BitVec.ofNat 8 (w.toNat / 2 ^ 8)) (BitVec.ofNat 8 w.toNat))) ∧
    (w.toNat / 2 ^ 32 = 2 → decode w = .ok .convertFrame) ∧
    (w.toNat / 2 ^ 32 = 3 → decode w = .error (.reservedCommand 0b11#2))) ∧
  (∀ p s, p.rst = false → p.cmd = 0b11#2 → s.fault = none →
    perform (.drive p) s = .next { s with fault := some ⟨.illegalCmd, .cmd 0b11#2⟩ }) ∧
  (∀ p s, p.rst = true → perform (.drive p) s = .next s.resetStep)

/-- R67: the command is exactly the 2 bits of `cmd`; pixel-port bits a command ignores never change decoding. -/
def Obligations.CommandIsExactlyTheCommandBits : Prop :=
  ∀ p q : Ports, p.cmd = q.cmd →
    (p.cmd ≠ 0b01#2 → decodePorts p = decodePorts q) ∧
    (∀ i, decodePorts p = .ok i → i.cmd = p.cmd ∧ ∃ j, decodePorts q = .ok j ∧ j.cmd = p.cmd)

/-- Words written out from the fields of the issue word decode to the commands they stand for (95_test_vectors.md,
`0:00000000`, `1:FF803C00`, `1:12345678`, `2:00000000`, `3:00000000`). -/
def Obligations.WrittenOutWordsDecode : Prop :=
  decode 0x000000000#34 = .ok .nop ∧
  decode 0x0FFFFFFFF#34 = .ok .nop ∧
  decode 0x1FF803C00#34 = .ok (.convertPixel 0xFF#8 0x80#8 0x3C#8 0x00#8) ∧
  decode 0x112345678#34 = .ok (.convertPixel 0x12#8 0x34#8 0x56#8 0x78#8) ∧
  decode 0x200000000#34 = .ok .convertFrame ∧
  decode 0x2A5A5A5A5#34 = .ok .convertFrame ∧
  decode 0x300000000#34 = .error (.reservedCommand 0b11#2)

/-! ## The step (40_pixel.md R83) -/

/-- R83: a step whose ports carry a command runs exactly that command, on the state with the move taken; and the word of
a row of the opcode table, placed by `withFetchWord`, is run by the very next step. The second clause is the model's own
choice: that a program is driven by the host's moves and that the word goes before every other one is log 2, and that of
the row's whole bytes the bits above bit 33 are dropped is log 13. -/
def Obligations.StepRunsTheDecodedCommand : Prop :=
  (∀ s p rest i, s.moves = .drive p :: rest → p.rst = false → decodePorts p = .ok i →
    step s = exec i (s.takeMove rest)) ∧
  (∀ (s : State) nbits w i, decodeTableWord nbits w = some i →
    step (s.withFetchWord nbits w) = exec i (s.takeMove s.moves))

/-- R83, R66: the order in which a step is evaluated, each case with its outcome; the reserved command faults whatever
the value of BUSY. Of a recorded fault R83 says "no step" and 93_implementation_defined.md 2.7 "stuck"; that such a step
then answers the same state with its move taken is the model's own reading (DEDUCED, log 4). -/
def Obligations.StepFollowsTheEvaluationOrder : Prop :=
  ∀ s p rest t, s.moves = .drive p :: rest → t = s.takeMove rest →
    (p.rst = true → step s = .next t.resetStep) ∧
    (p.rst = false →
      (∀ f, s.fault = some f → step s = .next t) ∧
      (s.fault = none →
        (p.cmd = 0b11#2 → step s = .next { t with fault := some ⟨.illegalCmd, .cmd p.cmd⟩ }) ∧
        (p.cmd ≠ 0b11#2 → p.cmd ≠ 0b00#2 → s.busy = true →
          step s = .next { t with fault := some ⟨.busyCmd, .cmd p.cmd⟩ }) ∧
        (p.cmd = 0b00#2 → step s = exec .nop t) ∧
        (p.cmd = 0b01#2 → s.busy = false → step s = exec (.convertPixel p.pixR p.pixG p.pixB p.pixA) t) ∧
        (p.cmd = 0b10#2 → s.busy = false → step s = exec .convertFrame t)))

/-- The model's own choice (log 3): with no host move left, nothing changes. -/
def Obligations.NoMoveLeavesTheState : Prop :=
  ∀ s, s.moves = [] → step s = .next s

/-- Every command answers a next state in every state: none refuses, none stops. That a recorded fault is no stop, so that
a command in a faulted state answers the same state, is the model's own reading of the spec's "stuck" (DEDUCED, log 4). -/
def Obligations.EveryCommandAnswersANextState : Prop :=
  ∀ i s, ∃ t, exec i s = .next t

/-- R97: IDX and the addresses computed from it stay in range, and no command accesses a byte outside a space. -/
def Obligations.BlockAccessesStayInsideTheSpaces : Prop :=
  (∀ s : State,
    s.idx.val ≤ Config.pixels - 1 ∧ s.idx.val + 1 < 2 ^ Config.idxBits ∧
    channelAddr s.idx.val 3 ≤ Config.frameBytes - 1 ∧ channelAddr s.idx.val 3 ≤ Config.previewBytes - 1 ∧
    packedAddr s.idx.val 1 ≤ Config.packedBytes - 1) ∧
  (Config.frameBytes - 1 = 81919 ∧ Config.previewBytes - 1 = 81919 ∧ Config.packedBytes - 1 = 40959) ∧
  (∀ i s sp a, exec i s ≠ .fault (.outsideSpace sp a))

/-! ## Reset (70_reset_and_hazards.md) -/

/-- R120, R124: what a step with `rst = 1` leaves, whatever the command, the pixel port and the state; and power-on is that
step on a state in which no memory byte holds a value. -/
def Obligations.ResetStepWritesTheResetValues : Prop :=
  (∀ s p rest, s.moves = .drive p :: rest → p.rst = true →
    ∃ t, step s = .next t ∧
      t.busy = false ∧ t.done = false ∧ t.idx.val = 0 ∧ t.fault = none ∧
      t.resB0 = none ∧ t.resB1 = none ∧ t.resQR = none ∧ t.resQG = none ∧ t.resQB = none ∧ t.resQA = none ∧
      t.frame = s.frame ∧
      (s.busy = true → ∀ a, t.readByte .packed a = none ∧ t.readByte .preview a = none) ∧
      (s.busy = false → t.packed = s.packed ∧ t.preview = s.preview)) ∧
  (∀ s : State, s.frame = [] → s.packed = [] → s.preview = [] →
    { s.resetStep with moves := [], answer := none } = State.reset)

/-- R123: a reset step during a frame ends it at once; every PACKED and PREVIEW byte then holds no value, and a read of
one faults. -/
def Obligations.ResetDuringAFrameDiscardsTheOutputs : Prop :=
  ∀ s p, p.rst = true → s.busy = true →
    ∃ t, perform (.drive p) s = .next t ∧ t.busy = false ∧ t.done = false ∧ t.frame = s.frame ∧
      (∀ sp a, sp ≠ .frame → t.readByte sp a = none) ∧
      (∀ sp a, sp ≠ .frame → a < spaceSize sp →
        perform (.read sp a) t = .next { t with fault := some ⟨.unwrittenRead, .byte sp a⟩ })

/-- R32, R34: the state at power-on. -/
def Obligations.PowerOnState : Prop :=
  State.reset.busy = false ∧ State.reset.done = false ∧ State.reset.idx.val = 0 ∧ State.reset.fault = none ∧
  ResultsEmpty State.reset ∧ (∀ sp a, State.reset.readByte sp a = none)

/-! ## The pixel functions (40_pixel.md R70 to R86) -/

/-- R70 to R73: each channel is truncated to its retained bits, and the alpha is 0. -/
def Obligations.QuantizingTruncates : Prop :=
  (∀ r : Byte, quantR r = r &&& 0xF8#8 ∧ quantR r = r.extractLsb' 3 5 ++ 0#3) ∧
  (∀ g : Byte, quantG g = g &&& 0xFC#8 ∧ quantG g = g.extractLsb' 2 6 ++ 0#2) ∧
  (∀ b : Byte, quantB b = b &&& 0xF8#8 ∧ quantB b = b.extractLsb' 3 5 ++ 0#3) ∧
  quantA = 0x00#8

/-- R62, R63, R74, R75: the formulas of the packed bytes, and the bits they carry. -/
def Obligations.PackedBytesCarryTheHighBits : Prop :=
  ∀ r g b : Byte,
    packB0 r g = ((r &&& 0xF8#8) ||| (g >>> 5)) ∧
    packB0 r g = r.extractLsb' 3 5 ++ g.extractLsb' 5 3 ∧
    packB1 g b = (((g &&& 0x1C#8) <<< 3) ||| (b >>> 3)) ∧
    packB1 g b = g.extractLsb' 2 3 ++ b.extractLsb' 3 5 ∧
    ((g &&& 0x1C#8) <<< 3).toNat = (g &&& 0x1C#8).toNat * 8

/-- R64, R76: the RGB565 word by its fields and as a number. -/
def Obligations.PackedWordIsRgb565 : Prop :=
  ∀ r g b : Byte,
    packWord r g b = packB0 r g ++ packB1 g b ∧
    packWord r g b = r.extractLsb' 3 5 ++ g.extractLsb' 2 6 ++ b.extractLsb' 3 5 ∧
    (packWord r g b).toNat = r.toNat / 8 * 2048 + g.toNat / 4 * 32 + b.toNat / 8

/-- R79: the operands of each OR have no bit in common, so OR is XOR and is addition without a carry. -/
def Obligations.PackingOperandsAreDisjoint : Prop :=
  ∀ r g b : Byte,
    (r &&& 0xF8#8) &&& (g >>> 5) = 0#8 ∧
    packB0 r g = (r &&& 0xF8#8) ^^^ (g >>> 5) ∧
    (packB0 r g).toNat = (r &&& 0xF8#8).toNat + (g >>> 5).toNat ∧
    ((g &&& 0x1C#8) <<< 3) &&& (b >>> 3) = 0#8 ∧
    packB1 g b = ((g &&& 0x1C#8) <<< 3) ^^^ (b >>> 3) ∧
    (packB1 g b).toNat = ((g &&& 0x1C#8) <<< 3).toNat + (b >>> 3).toNat

/-- R81: unpacking the packed bytes gives the quantized triple. -/
def Obligations.UnpackingGivesTheQuantizedTriple : Prop :=
  ∀ r g b : Byte, unpack (packB0 r g) (packB1 g b) = (quantR r, quantG g, quantB b)

/-- R82: the packed bytes are functions of the quantized triple. -/
def Obligations.PackedBytesComeFromTheQuantizedTriple : Prop :=
  ∀ r g b : Byte,
    packB0 r g = (quantR r ||| (quantG g >>> 5)) ∧
    packB1 g b = (((quantG g &&& 0x1C#8) <<< 3) ||| (quantB b >>> 3))

/-- R86: quantizing is idempotent, and packing ignores the dropped bits. -/
def Obligations.QuantizingIsIdempotent : Prop :=
  ∀ r g b : Byte,
    quantR (quantR r) = quantR r ∧ quantG (quantG g) = quantG g ∧ quantB (quantB b) = quantB b ∧
    packWord (quantR r) (quantG g) (quantB b) = packWord r g b ∧
    packWord 0xF8#8 0xFC#8 0xF8#8 = 0xFFFF#16 ∧ packWord 0xFF#8 0xFF#8 0xFF#8 = 0xFFFF#16

/-! ## CONVERT_PIXEL (40_pixel.md R85) -/

/-- R85: an idle, unfaulted block writes the six result registers and nothing else; a busy one raises BUSY_CMD. -/
def Obligations.ConvertPixelWritesTheResultRegisters : Prop :=
  ∀ r g b a s, s.fault = none →
    (s.busy = false → exec (.convertPixel r g b a) s = .next
      { s with
        resQR := some (r &&& 0xF8#8)
        resQG := some (g &&& 0xFC#8)
        resQB := some (b &&& 0xF8#8)
        resQA := some 0x00#8
        resB0 := some ((r &&& 0xF8#8) ||| (g >>> 5))
        resB1 := some (((g &&& 0x1C#8) <<< 3) ||| (b >>> 3)) }) ∧
    (s.busy = true → exec (.convertPixel r g b a) s = .next { s with fault := some ⟨.busyCmd, .cmd 0b01#2⟩ })

/-- The frame of CONVERT_PIXEL: in every state (a faulted one by log 4) it leaves the status outputs, IDX, every byte of memory and the host's
moves alone, and where it records a fault the result registers too. -/
def Obligations.ConvertPixelFrame : Prop :=
  ∀ r g b a s t, exec (.convertPixel r g b a) s = .next t →
    t.busy = s.busy ∧ t.done = s.done ∧ t.idx = s.idx ∧ t.moves = s.moves ∧ t.answer = s.answer ∧
    (∀ sp x, t.readByte sp x = s.readByte sp x) ∧
    (t.fault = s.fault ∨ (s.fault = none ∧ s.busy = true)) ∧
    (s.fault ≠ none ∨ s.busy = true →
      t.resB0 = s.resB0 ∧ t.resB1 = s.resB1 ∧ t.resQR = s.resQR ∧ t.resQG = s.resQG ∧ t.resQB = s.resQB ∧
      t.resQA = s.resQA)

/-- R77, R100: the alpha of the pixel port changes nothing, and whether CONVERT_PIXEL faults, and how, does not depend on
a pixel value. -/
def Obligations.NoPixelValueFaultsAndAlphaIsIgnored : Prop :=
  (∀ r g b a a' s, exec (.convertPixel r g b a) s = exec (.convertPixel r g b a') s) ∧
  (∀ r g b a r' g' b' a' s t t',
    exec (.convertPixel r g b a) s = .next t → exec (.convertPixel r' g' b' a') s = .next t' → t.fault = t'.fault)

/-- R85, R128: in the gap after the step the host reads the new values, each register and RES_WORD. -/
def Obligations.ResultsAreReadableInTheNextGap : Prop :=
  ∀ r g b a s, s.fault = none → s.busy = false →
    ∃ t, exec (.convertPixel r g b a) s = .next t ∧
      perform (.readReg .resB0) t = .next { t with answer := some (.byte (packB0 r g)) } ∧
      perform (.readReg .resB1) t = .next { t with answer := some (.byte (packB1 g b)) } ∧
      perform (.readReg .resQR) t = .next { t with answer := some (.byte (quantR r)) } ∧
      perform (.readReg .resQG) t = .next { t with answer := some (.byte (quantG g)) } ∧
      perform (.readReg .resQB) t = .next { t with answer := some (.byte (quantB b)) } ∧
      perform (.readReg .resQA) t = .next { t with answer := some (.byte 0x00#8) } ∧
      perform (.readReg .resWord) t = .next { t with answer := some (.word (packB0 r g ++ packB1 g b)) }

/-! ## NOP and the frame step (40_pixel.md R84, 41_frame.md R91, R92) -/

/-- R84: with BUSY = 0 a NOP changes no state; with BUSY = 1 it performs the frame step. -/
def Obligations.NopIdlesOrPerformsTheFrameStep : Prop :=
  (∀ s, s.busy = false → exec .nop s = .next s) ∧
  (∀ s, s.fault = none → s.busy = true → exec .nop s = frameStep s)

/-- R91: the frame step of pixel `i = IDX`, where FRAME holds R, G and B (the two packed bytes, the four preview bytes,
then IDX or the end of the frame), and where one of them holds no value (the first in the order R, G, B names the
address, and nothing else is written). -/
def Obligations.FrameStepConvertsPixelIdx : Prop :=
  ∀ s : State, s.fault = none → s.busy = true →
    (∀ r g b, s.readByte .frame (4 * s.idx.val) = some r → s.readByte .frame (4 * s.idx.val + 1) = some g →
      s.readByte .frame (4 * s.idx.val + 2) = some b →
      ∃ t, exec .nop s = .next t ∧
        t.readByte .packed (2 * s.idx.val) = some ((r &&& 0xF8#8) ||| (g >>> 5)) ∧
        t.readByte .packed (2 * s.idx.val + 1) = some (((g &&& 0x1C#8) <<< 3) ||| (b >>> 3)) ∧
        t.readByte .preview (4 * s.idx.val) = some (r &&& 0xF8#8) ∧
        t.readByte .preview (4 * s.idx.val + 1) = some (g &&& 0xFC#8) ∧
        t.readByte .preview (4 * s.idx.val + 2) = some (b &&& 0xF8#8) ∧
        t.readByte .preview (4 * s.idx.val + 3) = some 0x00#8 ∧
        (s.idx.val = Config.pixels - 1 → t.busy = false ∧ t.done = true ∧ t.idx = s.idx) ∧
        (s.idx.val ≠ Config.pixels - 1 → t.idx.val = s.idx.val + 1 ∧ t.busy = true ∧ t.done = s.done)) ∧
    (∀ c, c < 3 → s.readByte .frame (4 * s.idx.val + c) = none →
      (∀ d, d < c → s.readByte .frame (4 * s.idx.val + d) ≠ none) →
      exec .nop s = .next { s with fault := some ⟨.unwrittenRead, .byte .frame (4 * s.idx.val + c)⟩ })

/-- The frame of NOP: in every state (a faulted one by log 4) it leaves the result registers, FRAME and the host's moves alone; it raises a fault
only while BUSY = 1 and changes BUSY and DONE only at the last pixel; it writes no byte
of PACKED or PREVIEW outside pixel IDX's two and four bytes; and while BUSY = 0 it writes no byte at all. -/
def Obligations.NopFrame : Prop :=
  ∀ s t, exec .nop s = .next t →
    t.resB0 = s.resB0 ∧ t.resB1 = s.resB1 ∧ t.resQR = s.resQR ∧ t.resQG = s.resQG ∧ t.resQB = s.resQB ∧
    t.resQA = s.resQA ∧ t.moves = s.moves ∧ t.answer = s.answer ∧
    (t.fault = s.fault ∨ (s.fault = none ∧ s.busy = true)) ∧
    (s.idx.val ≠ Config.pixels - 1 → t.busy = s.busy ∧ t.done = s.done) ∧
    (∀ x, t.readByte .frame x = s.readByte .frame x) ∧
    (∀ x, x ≠ packedAddr s.idx.val 0 → x ≠ packedAddr s.idx.val 1 → t.readByte .packed x = s.readByte .packed x) ∧
    (∀ x, (∀ c, c < 4 → x ≠ channelAddr s.idx.val c) → t.readByte .preview x = s.readByte .preview x) ∧
    (s.busy = false ∨ t.fault ≠ none →
      t.busy = s.busy ∧ t.done = s.done ∧ t.idx = s.idx ∧ ∀ sp x, t.readByte sp x = s.readByte sp x)

/-- R45: PACKED holds the RGB565 word big-endian, its high byte at the even, lower address. -/
def Obligations.PackedIsBigEndian : Prop :=
  ∀ (s : State) r g b (w : Word), s.fault = none → s.busy = true → FrameHolds s s.idx.val r g b →
    w = r.extractLsb' 3 5 ++ g.extractLsb' 2 6 ++ b.extractLsb' 3 5 →
    ∃ t, exec .nop s = .next t ∧
      t.readByte .packed (2 * s.idx.val) = some (w.extractLsb' 8 8) ∧
      t.readByte .packed (2 * s.idx.val + 1) = some (w.extractLsb' 0 8)

/-- R92: the frame step of the last pixel ends the frame, and no other step does but a reset (a fault leaves BUSY as it
is, R107). -/
def Obligations.OnlyTheLastPixelOrResetEndsAFrame : Prop :=
  (∀ (s : State) r g b, s.fault = none → s.busy = true → s.idx.val = Config.pixels - 1 → FrameHolds s s.idx.val r g b →
    ∃ t, exec .nop s = .next t ∧ t.busy = false ∧ t.done = true ∧ t.idx = s.idx) ∧
  (∀ s t, step s = .next t → s.busy = true → t.busy = false →
    ∃ p rest, s.moves = .drive p :: rest ∧
      (p.rst = true ∨
        (p.rst = false ∧ p.cmd = 0b00#2 ∧ s.fault = none ∧ s.idx.val = Config.pixels - 1 ∧ t.done = true)))

/-! ## CONVERT_FRAME (41_frame.md R90) -/

/-- R90: an idle, unfaulted block starts a frame and touches nothing else; a busy one raises BUSY_CMD. -/
def Obligations.ConvertFrameStartsAFrame : Prop :=
  ∀ s : State, s.fault = none →
    (s.busy = false → ∃ t, exec .convertFrame s = .next t ∧
      t.busy = true ∧ t.done = false ∧ t.idx.val = 0 ∧ t = { s with busy := true, done := false, idx := t.idx }) ∧
    (s.busy = true → exec .convertFrame s = .next { s with fault := some ⟨.busyCmd, .cmd 0b10#2⟩ })

/-- The frame of CONVERT_FRAME: in every state (a faulted one by log 4) it leaves the result registers, every byte of memory and the host's moves
alone; where it records a fault, or one is recorded, the status outputs and IDX too. -/
def Obligations.ConvertFrameFrame : Prop :=
  ∀ s t, exec .convertFrame s = .next t →
    t.resB0 = s.resB0 ∧ t.resB1 = s.resB1 ∧ t.resQR = s.resQR ∧ t.resQG = s.resQG ∧ t.resQB = s.resQB ∧
    t.resQA = s.resQA ∧ t.moves = s.moves ∧ t.answer = s.answer ∧
    (∀ sp x, t.readByte sp x = s.readByte sp x) ∧
    (t.fault = s.fault ∨ (s.fault = none ∧ s.busy = true)) ∧
    (t.fault ≠ none → t.busy = s.busy ∧ t.done = s.done ∧ t.idx = s.idx)

/-! ## Faults (60_exceptions.md) -/

/-- R107: a step or host action that raises a fault writes FAULT and nothing else. -/
def Obligations.FaultEntryChangesNothingElse : Prop :=
  ∀ s t f, step s = .next t → s.fault = none → t.fault = some f →
    ∃ m rest, s.moves = m :: rest ∧ t = { s.takeMove rest with fault := some f }

/-- R101, R102: a fault is raised only under its cause's condition, with its cause's information (for a teardown and for
RES_WORD that information is the model's own choice, log 10 and log 9). -/
def Obligations.EveryFaultHasItsCause : Prop :=
  ∀ s t f, step s = .next t → s.fault = none → t.fault = some f →
    ∃ m rest, s.moves = m :: rest ∧ FaultCondition s m f

/-- R110: only a reset step clears FAULT, or changes it at all once it is set, and in a faulted state no other step of
the block does anything. That such a step answers the same state with its move taken, where the spec says "stuck", is the
model's own reading (DEDUCED, log 4); that the record also outlives a host access that would fault is log 5. -/
def Obligations.OnlyResetClearsAFault : Prop :=
  (∀ s t, step s = .next t → s.fault ≠ none →
    t.fault = s.fault ∨ ∃ p rest, s.moves = .drive p :: rest ∧ p.rst = true) ∧
  (∀ s p rest f, s.moves = .drive p :: rest → s.fault = some f →
    (p.rst = false → step s = .next (s.takeMove rest)) ∧
    (p.rst = true → ∃ t, step s = .next t ∧ t.fault = none))

/-! ## Host accesses (60_exceptions.md R115, R118; 10_state.md R35) -/

/-- R118: a host access to a byte, its faults in their order, and what it does without one. (A state with a fault already
recorded is the next statement's, log 5.) -/
def Obligations.HostAccessChecksInOrder : Prop :=
  ∀ s sp a v, s.fault = none →
    (spaceSize sp ≤ a →
      perform (.read sp a) s = .next { s with fault := some ⟨.hostRange, .byte sp a⟩ } ∧
      perform (.write sp a v) s = .next { s with fault := some ⟨.hostRange, .byte sp a⟩ }) ∧
    (a < spaceSize sp → s.busy = true →
      perform (.write sp a v) s = .next { s with fault := some ⟨.hostHazard, .access sp a .write⟩ } ∧
      (sp ≠ .frame →
        perform (.read sp a) s = .next { s with fault := some ⟨.hostHazard, .access sp a .read⟩ })) ∧
    (a < spaceSize sp → s.busy = false ∨ sp = .frame →
      (s.readByte sp a = none →
        perform (.read sp a) s = .next { s with fault := some ⟨.unwrittenRead, .byte sp a⟩ }) ∧
      (∀ x, s.readByte sp a = some x →
        perform (.read sp a) s = .next { s with answer := some (.byte x) })) ∧
    (a < spaceSize sp → s.busy = false →
      ∃ t, perform (.write sp a v) s = .next t ∧ t.readByte sp a = some v ∧
        (∀ sp' b, ¬ (sp' = sp ∧ b = a) → t.readByte sp' b = s.readByte sp' b))

/-- A byte written by the host is what a host read gives back, and the write touches no other byte and no register. That
this holds in a faulted state too, and that a further fault there leaves everything as it is, is the model's own choice
(log 5). -/
def Obligations.HostReadsWhatItWrote : Prop :=
  (∀ s sp a v, s.busy = false → a < spaceSize sp →
    ∃ t, perform (.write sp a v) s = .next t ∧
      perform (.read sp a) t = .next { t with answer := some (.byte v) } ∧
      (∀ sp' b, sp' ≠ sp ∨ b ≠ a → t.readByte sp' b = s.readByte sp' b) ∧
      t.busy = s.busy ∧ t.done = s.done ∧ t.idx = s.idx ∧ t.fault = s.fault ∧
      t.resB0 = s.resB0 ∧ t.resB1 = s.resB1 ∧ t.resQR = s.resQR ∧ t.resQG = s.resQG ∧ t.resQB = s.resQB ∧
      t.resQA = s.resQA) ∧
  (∀ s sp a v, s.fault ≠ none →
    (spaceSize sp ≤ a → perform (.read sp a) s = .next s ∧ perform (.write sp a v) s = .next s) ∧
    (a < spaceSize sp → s.busy = true →
      perform (.write sp a v) s = .next s ∧ (sp ≠ .frame → perform (.read sp a) s = .next s)) ∧
    (a < spaceSize sp → s.busy = false ∨ sp = .frame → s.readByte sp a = none →
      perform (.read sp a) s = .next s))

/-- R27, R28, R29, R26: in any state the host reads BUSY and DONE; a result register without a value faults; RES_WORD is
RES_B0 in bits 15..8 and RES_B1 below, without a value whenever one of them is (the name that fault then records is the
model's own choice, log 9). -/
def Obligations.HostReadsRegisters : Prop :=
  ∀ s : State,
    perform (.readReg .busy) s = .next { s with answer := some (.bit s.busy) } ∧
    perform (.readReg .done) s = .next { s with answer := some (.bit s.done) } ∧
    (∀ q ∈ [(Reg.resB0, s.resB0), (Reg.resB1, s.resB1), (Reg.resQR, s.resQR), (Reg.resQG, s.resQG),
        (Reg.resQB, s.resQB), (Reg.resQA, s.resQA)],
      (∀ v, q.2 = some v → perform (.readReg q.1) s = .next { s with answer := some (.byte v) }) ∧
      (q.2 = none → s.fault = none →
        perform (.readReg q.1) s = .next { s with fault := some ⟨.unwrittenRead, .register q.1⟩ })) ∧
    (∀ h l, s.resB0 = some h → s.resB1 = some l →
      ∃ w : Word, perform (.readReg .resWord) s = .next { s with answer := some (.word w) } ∧
        w.extractLsb' 8 8 = h ∧ w.extractLsb' 0 8 = l) ∧
    (s.fault = none → s.resB0 = none ∨ s.resB1 = none →
      perform (.readReg .resWord) s = .next { s with fault := some ⟨.unwrittenRead, .register .resWord⟩ })

/-- In every state a host write to any register, a host read of IDX or FAULT, and a run-time change of a parameter are
refused. R35 has the model refuse a write to BUSY, DONE, IDX or a result register, and D25 a change of a parameter; that a
write to RES_WORD or FAULT is refused alike, and that a read of IDX or FAULT (of which R30 and R31 say only that no host
read reaches them) is a move refused by name, is the model's own choice (DESIGN CHOICE, log 11). -/
def Obligations.HostRegisterWritesAreRefused : Prop :=
  ∀ (s : State) r v, perform (.writeReg r v) s = .refused (.registerWrite r) ∧
    (r = .idx ∨ r = .fault → perform (.readReg r) s = .refused (.hiddenRegister r)) ∧
    ∀ p n, perform (.setParameter p n) s = .refused (.fixedParameter p)

/-- R121: a teardown while BUSY = 1 is a HOST_HAZARD (what it records beside the cause is the model's own choice, log 10);
freeing while BUSY = 0 is outside the model. -/
def Obligations.TeardownWhileBusyIsAHazard : Prop :=
  ∀ (s : State) sp,
    (s.busy = true → s.fault = none →
      perform (.release sp) s = .next { s with fault := some ⟨.hostHazard, .buffer sp⟩ }) ∧
    (s.busy = false → perform (.release sp) s = .refused (.bufferReleased sp))

/-- R49: a host read has no effect but its answer or its fault. -/
def Obligations.HostReadsHaveNoSideEffect : Prop :=
  ∀ s t sp a r, (perform (.read sp a) s = .next t ∨ perform (.readReg r) s = .next t) →
    t = { s with answer := t.answer, fault := t.fault } ∧
    (t.fault = s.fault ∨ s.fault = none)

/-! ## Who changes what: rules over every step -/

/-- R27: BUSY rises only in an accepted CONVERT_FRAME, and falls only in a reset or the frame step of the last pixel. -/
def Obligations.BusyChangesOnlyAtFrameBoundaries : Prop :=
  ∀ s t, step s = .next t → t.busy ≠ s.busy →
    ∃ p rest, s.moves = .drive p :: rest ∧
      ((t.busy = true ∧ p.rst = false ∧ p.cmd = 0b10#2 ∧ s.fault = none) ∨
       (t.busy = false ∧ p.rst = true) ∨
       (t.busy = false ∧ p.rst = false ∧ p.cmd = 0b00#2 ∧ s.idx.val = Config.pixels - 1 ∧ t.done = true))

/-- R28, R104: DONE is set by the frame step of the last pixel, cleared by CONVERT_FRAME and by reset, changed by nothing
else, and never 1 together with BUSY if it was not before. -/
def Obligations.DoneChangesOnlyAtFrameBoundaries : Prop :=
  ∀ s t, step s = .next t →
    (t.done ≠ s.done →
      ∃ p rest, s.moves = .drive p :: rest ∧
        ((doneRises s t = true ∧ p.rst = false ∧ p.cmd = 0b00#2 ∧ s.busy = true ∧ s.idx.val = Config.pixels - 1) ∨
         (t.done = false ∧ p.rst = true) ∨
         (t.done = false ∧ p.rst = false ∧ p.cmd = 0b10#2 ∧ s.busy = false))) ∧
    (¬ (s.busy = true ∧ s.done = true) → ¬ (t.busy = true ∧ t.done = true))

/-- R30: IDX is set to 0 by CONVERT_FRAME and reset, incremented by every frame step but the last, changed by nothing
else. -/
def Obligations.IdxChangesOnlyAsTheFrameProceeds : Prop :=
  ∀ s t, step s = .next t → t.idx ≠ s.idx →
    ∃ p rest, s.moves = .drive p :: rest ∧
      ((p.rst = true ∧ t.idx.val = 0) ∨
       (p.rst = false ∧ p.cmd = 0b10#2 ∧ s.busy = false ∧ t.idx.val = 0) ∨
       (p.rst = false ∧ p.cmd = 0b00#2 ∧ s.busy = true ∧ s.idx.val ≠ Config.pixels - 1 ∧ t.idx.val = s.idx.val + 1))

/-- R26: the result registers are written only by CONVERT_PIXEL, and lose their values only in a reset. -/
def Obligations.ResultRegistersChangeOnlyByConvertPixel : Prop :=
  ∀ s t, step s = .next t →
    ¬ (t.resB0 = s.resB0 ∧ t.resB1 = s.resB1 ∧ t.resQR = s.resQR ∧ t.resQG = s.resQG ∧ t.resQB = s.resQB ∧
      t.resQA = s.resQA) →
    ∃ p rest, s.moves = .drive p :: rest ∧
      ((p.rst = true ∧ ResultsEmpty t) ∨
       (p.rst = false ∧ p.cmd = 0b01#2 ∧ s.fault = none ∧ s.busy = false ∧ ResultsOf t p.pixR p.pixG p.pixB))

/-- R58, R52: the block never writes FRAME; a byte of FRAME changes only in a host write while BUSY = 0. -/
def Obligations.FrameBytesChangeOnlyByIdleHostWrites : Prop :=
  ∀ s t a, step s = .next t → t.readByte .frame a ≠ s.readByte .frame a →
    s.busy = false ∧ ∃ v rest, s.moves = .write .frame a v :: rest ∧ t.readByte .frame a = some v

/-- R96, R35, R52: a byte of PACKED or PREVIEW changes only in the frame step that owns it, in a reset during a frame, or
in a host write while BUSY = 0. -/
def Obligations.OutputBytesChangeOnlyByTheirCauses : Prop :=
  ∀ s t sp a, step s = .next t → sp ≠ .frame → t.readByte sp a ≠ s.readByte sp a →
    (∃ p rest, s.moves = .drive p :: rest ∧ s.busy = true ∧
      ((p.rst = true ∧ t.readByte sp a = none) ∨
       (p.rst = false ∧ p.cmd = 0b00#2 ∧
        ((sp = .packed ∧ ∃ k, k < 2 ∧ a = packedAddr s.idx.val k) ∨
         (sp = .preview ∧ ∃ c, c < 4 ∧ a = channelAddr s.idx.val c))))) ∨
    (s.busy = false ∧ ∃ v rest, s.moves = .write sp a v :: rest ∧ t.readByte sp a = some v)

/-! ## Invariants -/

/-- Every step keeps the invariant, from every state that meets it. Of the fault records the invariant admits, R101 and
R102 describe all but two, which are the model's own choice: a HOST_HAZARD that records the space freed by a teardown
(log 10), and an UNWRITTEN_READ that records the name RES_WORD (log 9). -/
def Obligations.StepKeepsTheInvariant : Prop :=
  ∀ s t, Sys2Proof.Machine.Inv s → step s = .next t → Sys2Proof.Machine.Inv t

/-- The state at power-on meets the invariant. -/
def Obligations.PowerOnMeetsTheInvariant : Prop := Sys2Proof.Machine.Inv State.reset

/-- R93, R94: every step, of the block or of the host, keeps every pixel before IDX converted from what FRAME holds. -/
def Obligations.StepKeepsFrameProgress : Prop :=
  ∀ s t, FrameProgress s → step s = .next t → FrameProgress t

/-- The state at power-on, and every state right after an accepted CONVERT_FRAME, meets it. -/
def Obligations.FrameProgressHoldsAtTheStart : Prop :=
  FrameProgress State.reset ∧
  (∀ s t, s.busy = false → exec .convertFrame s = .next t → FrameProgress t)

/-- R93: the step that ends a frame leaves every pixel of the frame converted, and FRAME as it was. -/
def Obligations.TheEndOfAFrameFindsEveryPixelConverted : Prop :=
  ∀ s t, FrameProgress s → s.busy = true → step s = .next t → t.busy = false → t.done = true →
    (∀ i, i < Config.pixels → PixelConverted t i) ∧ t.frame = s.frame

/-! ## Whole frames (41_frame.md R93, R98, R99) -/

/-- R99: from an accepted CONVERT_FRAME, with NOP steps and any host accesses between them and no fault recorded, BUSY = 1
before the PIXELS-th NOP step, and BUSY = 0 and DONE = 1 from it on. NOP steps alone always answer a next state. -/
def Obligations.AFrameTakesPixelsSteps : Prop :=
  (∀ (s t : State) (p : Ports) (ms rest : List HostMove),
    s.fault = none → s.busy = false → p.rst = false → p.cmd = 0b10#2 → LetsRun ms →
    s.moves = .drive p :: (ms ++ rest) → runSteps (ms.length + 1) s = .next t → t.fault = none →
      (blockSteps ms < Config.pixels → t.busy = true) ∧
      (blockSteps ms = Config.pixels → t.busy = false ∧ t.done = true)) ∧
  (∀ (s : State) (p : Ports) (ps : List Ports) (rest : List HostMove),
    s.fault = none → s.busy = false → p.rst = false → p.cmd = 0b10#2 → LetsRun (ps.map .drive) →
    s.moves = .drive p :: (ps.map .drive ++ rest) →
    blockSteps (ps.map .drive) = ps.length ∧ ∃ t, runSteps (ps.length + 1) s = .next t)

/-- R93: with R, G and B of every pixel in FRAME when CONVERT_FRAME is accepted, and neither a reset nor a fault on the
way, the step that completes the frame (the PIXELS-th NOP step, whatever host accesses lie between the steps) leaves every
output byte given by R93's equations on that FRAME, and FRAME unchanged. -/
def Obligations.ACompletedFrameIsTheConversionOfFrame : Prop :=
  ∀ (s t : State) (p q : Ports) (ms rest : List HostMove),
    s.fault = none → s.busy = false → FrameLoaded s → p.rst = false → p.cmd = 0b10#2 →
    LetsRun (ms ++ [.drive q]) → blockSteps (ms ++ [.drive q]) = Config.pixels →
    s.moves = .drive p :: (ms ++ .drive q :: rest) → runSteps (ms.length + 2) s = .next t → t.fault = none →
    FrameResult s t ∧ t.frame = s.frame ∧ Final t ∧ t.done = true ∧
      (∀ a, a < Config.packedBytes → t.readByte .packed a ≠ none) ∧
      (∀ a, a < Config.previewBytes → t.readByte .preview a ≠ none)

/-- R122, R134: from the launch premises, a host that issues CONVERT_FRAME and then PIXELS NOP steps meets no fault: the
frame completes in a final state, with R93's result, and exactly the bytes of the two outputs hold a value (R98). -/
def Obligations.ALoadedFrameCompletes : Prop :=
  ∀ (s : State) (p : Ports) (ps : List Ports) (rest : List HostMove),
    Sys2Proof.Machine.Inv s → NoFault s → Idle s → FrameLoaded s → p.rst = false → p.cmd = 0b10#2 →
    LetsRun (ps.map .drive) → s.moves = .drive p :: (ps.map .drive ++ rest) → ps.length = Config.pixels →
    ∃ t, runSteps (Config.pixels + 1) s = .next t ∧ Final t ∧ t.done = true ∧ t.frame = s.frame ∧ FrameResult s t ∧
      (∀ a, t.readByte .packed a ≠ none ↔ a < 40960) ∧
      (∀ a, t.readByte .preview a ≠ none ↔ a < 81920)

/-! ## What cannot be seen -/

/-- R77, R91: the A bytes of FRAME change nothing any command does. -/
def Obligations.FrameAlphaIsNeverSeen : Prop :=
  ∀ (s t : State) (f : Memory) (i : Instr),
    (∀ x, x % 4 ≠ 3 → f.read x = s.frame.read x) → exec i s = .next t →
    exec i { s with frame := f } = .next { t with frame := f }

/-- R30: while BUSY = 0 the value of IDX changes nothing but IDX, and nothing at all once a frame is started. -/
def Obligations.IdleIdxIsNeverSeen : Prop :=
  ∀ (s t : State) (j : Fin Config.pixels) (m : HostMove),
    s.busy = false → perform m s = .next t →
    ∃ k, perform m { s with idx := j } = .next { t with idx := k } ∧ (t.busy = true → k = t.idx)

/-! ## Layout, parameters and notation -/

/-- R44: the row-major index is a bijection of columns and rows with the pixel indexes, row by row (the formula is the
spec's own general knowledge, PRESUMED, log 18). -/
def Obligations.PixelIndexIsRowMajor : Prop :=
  (∀ x y, x < Config.width → y < Config.height → pixelIndex x y < Config.pixels ∧
    pixelIndex x y % Config.width = x ∧ pixelIndex x y / Config.width = y) ∧
  (∀ i, i < Config.pixels → i % Config.width < Config.width ∧ i / Config.width < Config.height ∧
    pixelIndex (i % Config.width) (i / Config.width) = i)

/-- R41, R42, R43: two pixels share no byte of a space, and every byte of PACKED, FRAME and PREVIEW is one of a pixel. -/
def Obligations.PixelsTileTheSpaces : Prop :=
  (∀ i j c d, c < 4 → d < 4 → channelAddr i c = channelAddr j d → i = j ∧ c = d) ∧
  (∀ i j k l, k < 2 → l < 2 → packedAddr i k = packedAddr j l → i = j ∧ k = l) ∧
  (∀ a, a < spaceSize .frame → ∃ i c, i < Config.pixels ∧ c < 4 ∧ a = channelAddr i c) ∧
  (∀ a, a < spaceSize .preview → ∃ i c, i < Config.pixels ∧ c < 4 ∧ a = channelAddr i c) ∧
  (∀ a, a < spaceSize .packed → ∃ i k, i < Config.pixels ∧ k < 2 ∧ a = packedAddr i k)

/-- R6: the values of the parameters, and that they meet the constraint on them. -/
def Obligations.ParametersHaveTheStatedValues : Prop :=
  Config.width = 160 ∧ Config.height = 128 ∧ Config.pixels = 20480 ∧ Config.packedBytes = 40960 ∧
  Config.channelBits = 8 ∧ Config.channels = 4 ∧ Config.frameBytes = 81920 ∧ Config.previewBytes = 81920 ∧
  Config.idxBits = 15 ∧ Config.hardware.wellFormed = true

/-- R50: in an accepted placement a shared address names at most one byte, and overlapping ranges are refused. -/
def Obligations.AcceptedPlacementsNameOneByte : Prop :=
  (∀ p sp a, p.wellFormed = true → a < spaceSize sp → locate p (placeAddr p sp a) = some (sp, a)) ∧
  (∀ q : Platform, ∀ p sp sp' a a', q.placement = some p → sp ≠ sp' → a < spaceSize sp → a' < spaceSize sp' →
    placeAddr p sp a = placeAddr p sp' a' → acceptPlatform q = none)

/-- R69: what the pseudo-instructions expand to. `WAIT` at a state is rounds of a NOP step and a read of DONE, up to the
first round that reads 1; where it has no expansion, no number of rounds reads 1; `n` pixels before the end of a frame over
a loaded FRAME it is `n` rounds, and so PIXELS rounds right after a `FRAME`. That it begins with a round where DONE is 1
already is DEDUCED (log 19). -/
def Obligations.PseudoInstructionsExpand : Prop :=
  (∀ s ms, asmWait s = some ms → ∃ n, 0 < n ∧ ms = asmPoll n ∧
    ∀ rest k, 0 < k → k ≤ n → ∃ t, runSteps (2 * k) { s with moves := ms ++ rest } = .next t ∧
      t.answer = some (.bit (decide (k = n)))) ∧
  (∀ s, asmWait s = none → ∀ rest n, 0 < n →
    ∃ t, runSteps (2 * n) { s with moves := asmPoll n ++ rest } = .next t ∧ t.answer = some (.bit false)) ∧
  (∀ s, FrameLoaded s → s.fault = none → s.busy = true → s.done = false →
    asmWait s = some (asmPoll (Config.pixels - s.idx.val))) ∧
  (∀ s t, FrameLoaded s → s.fault = none → s.busy = false → exec .convertFrame s = .next t →
    asmWait t = some (asmPoll Config.pixels)) ∧
  (∀ n, (asmPoll n).length = 2 * n ∧ ∀ k, k < n →
    (asmPoll n)[2 * k]? = some asmNop ∧ (asmPoll n)[2 * k + 1]? = some (.readReg .done)) ∧
  (∀ sp v a, (a < spaceSize sp → (asmFill sp v)[a]? = some (.write sp a v)) ∧
    (asmFill sp v).length = spaceSize sp) ∧
  (∀ i r g b a, asmLoadPix i r g b a = [.write .frame (4 * i) r, .write .frame (4 * i + 1) g,
    .write .frame (4 * i + 2) b, .write .frame (4 * i + 3) a])
end

