-- ==== Sys2Proof/Laws/State.lean ====
section
/-! SUPPORT. What each update of the state does to each field: one lemma per field per update. -/

namespace Sys2Proof.Machine

variable (s : State)


/-! ## raise -/

@[simp] theorem State.raise_resB0 (c : FaultCause) (i : FaultInfo) : (s.raise c i).resB0 = s.resB0 := rfl
@[simp] theorem State.raise_resB1 (c : FaultCause) (i : FaultInfo) : (s.raise c i).resB1 = s.resB1 := rfl
@[simp] theorem State.raise_resQR (c : FaultCause) (i : FaultInfo) : (s.raise c i).resQR = s.resQR := rfl
@[simp] theorem State.raise_resQG (c : FaultCause) (i : FaultInfo) : (s.raise c i).resQG = s.resQG := rfl
@[simp] theorem State.raise_resQB (c : FaultCause) (i : FaultInfo) : (s.raise c i).resQB = s.resQB := rfl
@[simp] theorem State.raise_resQA (c : FaultCause) (i : FaultInfo) : (s.raise c i).resQA = s.resQA := rfl
@[simp] theorem State.raise_busy (c : FaultCause) (i : FaultInfo) : (s.raise c i).busy = s.busy := rfl
@[simp] theorem State.raise_done (c : FaultCause) (i : FaultInfo) : (s.raise c i).done = s.done := rfl
@[simp] theorem State.raise_idx (c : FaultCause) (i : FaultInfo) : (s.raise c i).idx = s.idx := rfl
@[simp] theorem State.raise_frame (c : FaultCause) (i : FaultInfo) : (s.raise c i).frame = s.frame := rfl
@[simp] theorem State.raise_packed (c : FaultCause) (i : FaultInfo) : (s.raise c i).packed = s.packed := rfl
@[simp] theorem State.raise_preview (c : FaultCause) (i : FaultInfo) : (s.raise c i).preview = s.preview := rfl
@[simp] theorem State.raise_moves (c : FaultCause) (i : FaultInfo) : (s.raise c i).moves = s.moves := rfl
@[simp] theorem State.raise_answer (c : FaultCause) (i : FaultInfo) : (s.raise c i).answer = s.answer := rfl

/-- A fault is recorded where none was. -/
theorem State.raise_fault_of_none {s : State} (h : s.fault = none) (c : FaultCause) (i : FaultInfo) :
    (s.raise c i).fault = some ⟨c, i⟩ := by simp [State.raise, h]

/-- A recorded fault stays. -/
theorem State.raise_fault_of_some {s : State} {f : FaultRecord} (h : s.fault = some f) (c : FaultCause) (i : FaultInfo) :
    s.raise c i = s := by
  cases s; subst h; rfl

/-- Raising a fault in an unfaulted state, as a record update. -/
theorem State.raise_eq {s : State} (h : s.fault = none) (c : FaultCause) (i : FaultInfo) :
    s.raise c i = { s with fault := some ⟨c, i⟩ } := by simp [State.raise, h]

/-! ## takeMove -/

@[simp] theorem State.takeMove_resB0 (rest : List HostMove) : (s.takeMove rest).resB0 = s.resB0 := rfl
@[simp] theorem State.takeMove_resB1 (rest : List HostMove) : (s.takeMove rest).resB1 = s.resB1 := rfl
@[simp] theorem State.takeMove_resQR (rest : List HostMove) : (s.takeMove rest).resQR = s.resQR := rfl
@[simp] theorem State.takeMove_resQG (rest : List HostMove) : (s.takeMove rest).resQG = s.resQG := rfl
@[simp] theorem State.takeMove_resQB (rest : List HostMove) : (s.takeMove rest).resQB = s.resQB := rfl
@[simp] theorem State.takeMove_resQA (rest : List HostMove) : (s.takeMove rest).resQA = s.resQA := rfl
@[simp] theorem State.takeMove_busy (rest : List HostMove) : (s.takeMove rest).busy = s.busy := rfl
@[simp] theorem State.takeMove_done (rest : List HostMove) : (s.takeMove rest).done = s.done := rfl
@[simp] theorem State.takeMove_idx (rest : List HostMove) : (s.takeMove rest).idx = s.idx := rfl
@[simp] theorem State.takeMove_fault (rest : List HostMove) : (s.takeMove rest).fault = s.fault := rfl
@[simp] theorem State.takeMove_frame (rest : List HostMove) : (s.takeMove rest).frame = s.frame := rfl
@[simp] theorem State.takeMove_packed (rest : List HostMove) : (s.takeMove rest).packed = s.packed := rfl
@[simp] theorem State.takeMove_preview (rest : List HostMove) : (s.takeMove rest).preview = s.preview := rfl
@[simp] theorem State.takeMove_moves (rest : List HostMove) : (s.takeMove rest).moves = rest := rfl
@[simp] theorem State.takeMove_answer (rest : List HostMove) : (s.takeMove rest).answer = none := rfl

/-! ## giveBack -/

@[simp] theorem State.giveBack_resB0 (d : HostData) : (s.giveBack d).resB0 = s.resB0 := rfl
@[simp] theorem State.giveBack_resB1 (d : HostData) : (s.giveBack d).resB1 = s.resB1 := rfl
@[simp] theorem State.giveBack_resQR (d : HostData) : (s.giveBack d).resQR = s.resQR := rfl
@[simp] theorem State.giveBack_resQG (d : HostData) : (s.giveBack d).resQG = s.resQG := rfl
@[simp] theorem State.giveBack_resQB (d : HostData) : (s.giveBack d).resQB = s.resQB := rfl
@[simp] theorem State.giveBack_resQA (d : HostData) : (s.giveBack d).resQA = s.resQA := rfl
@[simp] theorem State.giveBack_busy (d : HostData) : (s.giveBack d).busy = s.busy := rfl
@[simp] theorem State.giveBack_done (d : HostData) : (s.giveBack d).done = s.done := rfl
@[simp] theorem State.giveBack_idx (d : HostData) : (s.giveBack d).idx = s.idx := rfl
@[simp] theorem State.giveBack_fault (d : HostData) : (s.giveBack d).fault = s.fault := rfl
@[simp] theorem State.giveBack_frame (d : HostData) : (s.giveBack d).frame = s.frame := rfl
@[simp] theorem State.giveBack_packed (d : HostData) : (s.giveBack d).packed = s.packed := rfl
@[simp] theorem State.giveBack_preview (d : HostData) : (s.giveBack d).preview = s.preview := rfl
@[simp] theorem State.giveBack_moves (d : HostData) : (s.giveBack d).moves = s.moves := rfl
@[simp] theorem State.giveBack_answer (d : HostData) : (s.giveBack d).answer = some d := rfl

/-! ## resetStep -/

@[simp] theorem State.resetStep_resB0 : (s.resetStep).resB0 = none := rfl
@[simp] theorem State.resetStep_resB1 : (s.resetStep).resB1 = none := rfl
@[simp] theorem State.resetStep_resQR : (s.resetStep).resQR = none := rfl
@[simp] theorem State.resetStep_resQG : (s.resetStep).resQG = none := rfl
@[simp] theorem State.resetStep_resQB : (s.resetStep).resQB = none := rfl
@[simp] theorem State.resetStep_resQA : (s.resetStep).resQA = none := rfl
@[simp] theorem State.resetStep_busy : (s.resetStep).busy = false := rfl
@[simp] theorem State.resetStep_done : (s.resetStep).done = false := rfl
@[simp] theorem State.resetStep_idx : (s.resetStep).idx = Config.firstPixel := rfl
@[simp] theorem State.resetStep_fault : (s.resetStep).fault = none := rfl
@[simp] theorem State.resetStep_frame : (s.resetStep).frame = s.frame := rfl
@[simp] theorem State.resetStep_packed : (s.resetStep).packed = (if s.busy then [] else s.packed) := rfl
@[simp] theorem State.resetStep_preview : (s.resetStep).preview = (if s.busy then [] else s.preview) := rfl
@[simp] theorem State.resetStep_moves : (s.resetStep).moves = s.moves := rfl
@[simp] theorem State.resetStep_answer : (s.resetStep).answer = s.answer := rfl

/-! ## setResults -/

@[simp] theorem State.setResults_resB0 (r g b : Byte) : (s.setResults r g b).resB0 = some (packB0 r g) := rfl
@[simp] theorem State.setResults_resB1 (r g b : Byte) : (s.setResults r g b).resB1 = some (packB1 g b) := rfl
@[simp] theorem State.setResults_resQR (r g b : Byte) : (s.setResults r g b).resQR = some (quantR r) := rfl
@[simp] theorem State.setResults_resQG (r g b : Byte) : (s.setResults r g b).resQG = some (quantG g) := rfl
@[simp] theorem State.setResults_resQB (r g b : Byte) : (s.setResults r g b).resQB = some (quantB b) := rfl
@[simp] theorem State.setResults_resQA (r g b : Byte) : (s.setResults r g b).resQA = some quantA := rfl
@[simp] theorem State.setResults_busy (r g b : Byte) : (s.setResults r g b).busy = s.busy := rfl
@[simp] theorem State.setResults_done (r g b : Byte) : (s.setResults r g b).done = s.done := rfl
@[simp] theorem State.setResults_idx (r g b : Byte) : (s.setResults r g b).idx = s.idx := rfl
@[simp] theorem State.setResults_fault (r g b : Byte) : (s.setResults r g b).fault = s.fault := rfl
@[simp] theorem State.setResults_frame (r g b : Byte) : (s.setResults r g b).frame = s.frame := rfl
@[simp] theorem State.setResults_packed (r g b : Byte) : (s.setResults r g b).packed = s.packed := rfl
@[simp] theorem State.setResults_preview (r g b : Byte) : (s.setResults r g b).preview = s.preview := rfl
@[simp] theorem State.setResults_moves (r g b : Byte) : (s.setResults r g b).moves = s.moves := rfl
@[simp] theorem State.setResults_answer (r g b : Byte) : (s.setResults r g b).answer = s.answer := rfl

/-! ## beginFrame -/

@[simp] theorem State.beginFrame_resB0 : (s.beginFrame).resB0 = s.resB0 := rfl
@[simp] theorem State.beginFrame_resB1 : (s.beginFrame).resB1 = s.resB1 := rfl
@[simp] theorem State.beginFrame_resQR : (s.beginFrame).resQR = s.resQR := rfl
@[simp] theorem State.beginFrame_resQG : (s.beginFrame).resQG = s.resQG := rfl
@[simp] theorem State.beginFrame_resQB : (s.beginFrame).resQB = s.resQB := rfl
@[simp] theorem State.beginFrame_resQA : (s.beginFrame).resQA = s.resQA := rfl
@[simp] theorem State.beginFrame_busy : (s.beginFrame).busy = true := rfl
@[simp] theorem State.beginFrame_done : (s.beginFrame).done = false := rfl
@[simp] theorem State.beginFrame_idx : (s.beginFrame).idx = Config.firstPixel := rfl
@[simp] theorem State.beginFrame_fault : (s.beginFrame).fault = s.fault := rfl
@[simp] theorem State.beginFrame_frame : (s.beginFrame).frame = s.frame := rfl
@[simp] theorem State.beginFrame_packed : (s.beginFrame).packed = s.packed := rfl
@[simp] theorem State.beginFrame_preview : (s.beginFrame).preview = s.preview := rfl
@[simp] theorem State.beginFrame_moves : (s.beginFrame).moves = s.moves := rfl
@[simp] theorem State.beginFrame_answer : (s.beginFrame).answer = s.answer := rfl

/-! ## endPixel -/

@[simp] theorem State.endPixel_resB0 : (s.endPixel).resB0 = s.resB0 := by
  unfold State.endPixel; split <;> rfl
@[simp] theorem State.endPixel_resB1 : (s.endPixel).resB1 = s.resB1 := by
  unfold State.endPixel; split <;> rfl
@[simp] theorem State.endPixel_resQR : (s.endPixel).resQR = s.resQR := by
  unfold State.endPixel; split <;> rfl
@[simp] theorem State.endPixel_resQG : (s.endPixel).resQG = s.resQG := by
  unfold State.endPixel; split <;> rfl
@[simp] theorem State.endPixel_resQB : (s.endPixel).resQB = s.resQB := by
  unfold State.endPixel; split <;> rfl
@[simp] theorem State.endPixel_resQA : (s.endPixel).resQA = s.resQA := by
  unfold State.endPixel; split <;> rfl
@[simp] theorem State.endPixel_fault : (s.endPixel).fault = s.fault := by
  unfold State.endPixel; split <;> rfl
@[simp] theorem State.endPixel_frame : (s.endPixel).frame = s.frame := by
  unfold State.endPixel; split <;> rfl
@[simp] theorem State.endPixel_packed : (s.endPixel).packed = s.packed := by
  unfold State.endPixel; split <;> rfl
@[simp] theorem State.endPixel_preview : (s.endPixel).preview = s.preview := by
  unfold State.endPixel; split <;> rfl
@[simp] theorem State.endPixel_moves : (s.endPixel).moves = s.moves := by
  unfold State.endPixel; split <;> rfl
@[simp] theorem State.endPixel_answer : (s.endPixel).answer = s.answer := by
  unfold State.endPixel; split <;> rfl

/-- Any pixel but the last: `IDX` goes up by one (R91). -/
theorem State.endPixel_of_lt {s : State} (h : s.idx.val + 1 < Config.pixels) :
    s.endPixel = { s with idx := ⟨s.idx.val + 1, h⟩ } := by simp only [State.endPixel, h, dite_true]

/-- The last pixel: `BUSY <- 0`, `DONE <- 1`, `IDX` unchanged (R92). -/
theorem State.endPixel_of_last {s : State} (h : ¬ s.idx.val + 1 < Config.pixels) :
    s.endPixel = { s with busy := false, done := true } := by simp only [State.endPixel, h, dite_false]

/-- Any pixel but the last, field by field (R91). -/
theorem State.endPixel_more {s : State} (h : s.idx.val + 1 < Config.pixels) :
    s.endPixel.busy = s.busy ∧ s.endPixel.done = s.done ∧ s.endPixel.idx.val = s.idx.val + 1 := by
  rw [State.endPixel_of_lt h]; exact ⟨rfl, rfl, rfl⟩

/-- The last pixel, field by field (R92). -/
theorem State.endPixel_last {s : State} (h : ¬ s.idx.val + 1 < Config.pixels) :
    s.endPixel.busy = false ∧ s.endPixel.done = true ∧ s.endPixel.idx = s.idx := by
  rw [State.endPixel_of_last h]; exact ⟨rfl, rfl, rfl⟩

/-- `IDX` is at the last pixel exactly where it cannot go up (R92, R97). -/
theorem State.idx_last_iff (s : State) : ¬ s.idx.val + 1 < Config.pixels ↔ s.idx.val = Config.pixels - 1 := by
  have := s.idx.isLt; omega

/-! ## writeByte -/

@[simp] theorem State.writeByte_resB0 (sp : Space) (a : Nat) (v : Byte) : (s.writeByte sp a v).resB0 = s.resB0 := by cases sp <;> rfl
@[simp] theorem State.writeByte_resB1 (sp : Space) (a : Nat) (v : Byte) : (s.writeByte sp a v).resB1 = s.resB1 := by cases sp <;> rfl
@[simp] theorem State.writeByte_resQR (sp : Space) (a : Nat) (v : Byte) : (s.writeByte sp a v).resQR = s.resQR := by cases sp <;> rfl
@[simp] theorem State.writeByte_resQG (sp : Space) (a : Nat) (v : Byte) : (s.writeByte sp a v).resQG = s.resQG := by cases sp <;> rfl
@[simp] theorem State.writeByte_resQB (sp : Space) (a : Nat) (v : Byte) : (s.writeByte sp a v).resQB = s.resQB := by cases sp <;> rfl
@[simp] theorem State.writeByte_resQA (sp : Space) (a : Nat) (v : Byte) : (s.writeByte sp a v).resQA = s.resQA := by cases sp <;> rfl
@[simp] theorem State.writeByte_busy (sp : Space) (a : Nat) (v : Byte) : (s.writeByte sp a v).busy = s.busy := by cases sp <;> rfl
@[simp] theorem State.writeByte_done (sp : Space) (a : Nat) (v : Byte) : (s.writeByte sp a v).done = s.done := by cases sp <;> rfl
@[simp] theorem State.writeByte_idx (sp : Space) (a : Nat) (v : Byte) : (s.writeByte sp a v).idx = s.idx := by cases sp <;> rfl
@[simp] theorem State.writeByte_fault (sp : Space) (a : Nat) (v : Byte) : (s.writeByte sp a v).fault = s.fault := by cases sp <;> rfl
@[simp] theorem State.writeByte_moves (sp : Space) (a : Nat) (v : Byte) : (s.writeByte sp a v).moves = s.moves := by cases sp <;> rfl
@[simp] theorem State.writeByte_answer (sp : Space) (a : Nat) (v : Byte) : (s.writeByte sp a v).answer = s.answer := by cases sp <;> rfl
@[simp] theorem State.writeByte_frame_frame (a : Nat) (v : Byte) : (s.writeByte .frame a v).frame = s.frame.write a v := rfl
@[simp] theorem State.writeByte_frame_packed (a : Nat) (v : Byte) : (s.writeByte .frame a v).packed = s.packed := rfl
@[simp] theorem State.writeByte_frame_preview (a : Nat) (v : Byte) : (s.writeByte .frame a v).preview = s.preview := rfl
@[simp] theorem State.writeByte_packed_frame (a : Nat) (v : Byte) : (s.writeByte .packed a v).frame = s.frame := rfl
@[simp] theorem State.writeByte_packed_packed (a : Nat) (v : Byte) : (s.writeByte .packed a v).packed = s.packed.write a v := rfl
@[simp] theorem State.writeByte_packed_preview (a : Nat) (v : Byte) : (s.writeByte .packed a v).preview = s.preview := rfl
@[simp] theorem State.writeByte_preview_frame (a : Nat) (v : Byte) : (s.writeByte .preview a v).frame = s.frame := rfl
@[simp] theorem State.writeByte_preview_packed (a : Nat) (v : Byte) : (s.writeByte .preview a v).packed = s.packed := rfl
@[simp] theorem State.writeByte_preview_preview (a : Nat) (v : Byte) : (s.writeByte .preview a v).preview = s.preview.write a v := rfl

/-- Reading a byte after a host move is taken. -/
@[simp] theorem State.takeMove_readByte (rest : List HostMove) (sp : Space) (a : Nat) :
    (s.takeMove rest).readByte sp a = s.readByte sp a := by cases sp <;> rfl

@[simp] theorem State.raise_readByte (c : FaultCause) (i : FaultInfo) (sp : Space) (a : Nat) :
    (s.raise c i).readByte sp a = s.readByte sp a := by cases sp <;> rfl

@[simp] theorem State.giveBack_readByte (d : HostData) (sp : Space) (a : Nat) :
    (s.giveBack d).readByte sp a = s.readByte sp a := by cases sp <;> rfl

@[simp] theorem State.beginFrame_readByte (sp : Space) (a : Nat) :
    s.beginFrame.readByte sp a = s.readByte sp a := by cases sp <;> rfl

@[simp] theorem State.setResults_readByte (r g b : Byte) (sp : Space) (a : Nat) :
    (s.setResults r g b).readByte sp a = s.readByte sp a := by cases sp <;> rfl

@[simp] theorem State.endPixel_readByte (sp : Space) (a : Nat) :
    s.endPixel.readByte sp a = s.readByte sp a := by
  cases sp <;> simp [State.readByte, State.mem]

end Sys2Proof.Machine
end

