-- ==== Sys2Proof/Laws/Ops.lean ====
section
/-! SUPPORT. One lemma per shared operation: the guards of a step, the block's memory primitives, the bounds of its addresses, the checks of a host access. -/

namespace Sys2Proof.Machine

/-! ## Guards -/

theorem unlessFaulted_of_none {s : State} (h : s.fault = none) (k : Out) : unlessFaulted s k = k := by
  simp [unlessFaulted, h]

theorem unlessFaulted_of_some {s : State} {f : FaultRecord} (h : s.fault = some f) (k : Out) :
    unlessFaulted s k = .next s := by
  simp [unlessFaulted, h]

/-- What the fault guard can answer as a next state. -/
theorem unlessFaulted_next {s t : State} {k : Out} (h : unlessFaulted s k = .next t) :
    ((∃ f, s.fault = some f) ∧ t = s) ∨ (s.fault = none ∧ k = .next t) := by
  unfold unlessFaulted at h
  split at h
  · rename_i f hf; exact .inl ⟨⟨f, hf⟩, by simpa using h.symm⟩
  · rename_i hf; exact .inr ⟨hf, h⟩

theorem unlessBusy_of_idle {s : State} (h : s.busy = false) (c : Cmd) (k : Out) : unlessBusy s c k = k := by
  simp [unlessBusy, h]

theorem unlessBusy_of_busy {s : State} (h : s.busy = true) (c : Cmd) (k : Out) :
    unlessBusy s c k = .next (s.raise .busyCmd (.cmd c)) := by
  simp [unlessBusy, h]

/-- What the busy guard can answer as a next state. -/
theorem unlessBusy_next {s t : State} {c : Cmd} {k : Out} (h : unlessBusy s c k = .next t) :
    (s.busy = true ∧ t = s.raise .busyCmd (.cmd c)) ∨ (s.busy = false ∧ k = .next t) := by
  unfold unlessBusy at h
  split at h
  · rename_i hb; exact .inl ⟨hb, by simpa using h.symm⟩
  · rename_i hb; exact .inr ⟨by simpa using hb, h⟩

/-! ## Addresses -/

theorem channelAddr_lt_frame {i c : Nat} (hi : i < Config.pixels) (hc : c < 4) :
    channelAddr i c < spaceSize .frame := by
  simp only [channelAddr, spaceSize, Config.frameBytes, Config.channels]; omega

theorem channelAddr_lt_preview {i c : Nat} (hi : i < Config.pixels) (hc : c < 4) :
    channelAddr i c < spaceSize .preview := by
  simp only [channelAddr, spaceSize, Config.previewBytes, Config.channels]; omega

theorem packedAddr_lt {i k : Nat} (hi : i < Config.pixels) (hk : k < 2) :
    packedAddr i k < spaceSize .packed := by
  simp only [packedAddr, spaceSize, Config.packedBytes]; omega

theorem channelAddr_inj {i c j d : Nat} (hc : c < 4) (hd : d < 4) :
    channelAddr i c = channelAddr j d ↔ i = j ∧ c = d := by
  unfold channelAddr; omega

theorem packedAddr_inj {i c j d : Nat} (hc : c < 2) (hd : d < 2) :
    packedAddr i c = packedAddr j d ↔ i = j ∧ c = d := by
  unfold packedAddr; omega

/-! ## The block's memory primitives -/

theorem blockRead_of_value {s : State} {sp : Space} {a : Nat} {v : Byte} (ha : a < spaceSize sp)
    (hv : s.readByte sp a = some v) (k : Byte → Out) : blockRead s sp a k = k v := by
  simp [blockRead, ha, hv]

theorem blockRead_of_none {s : State} {sp : Space} {a : Nat} (ha : a < spaceSize sp)
    (hv : s.readByte sp a = none) (k : Byte → Out) :
    blockRead s sp a k = .next (s.raise .unwrittenRead (.byte sp a)) := by
  simp [blockRead, ha, hv]

theorem blockWrite_of_lt {s : State} {sp : Space} {a : Nat} (ha : a < spaceSize sp) (v : Byte)
    (k : State → Out) : blockWrite s sp a v k = k (s.writeByte sp a v) := by
  simp [blockWrite, ha]

/-! ## Host access -/

/-- What a host access can answer as a next state (R118). -/
theorem hostAccess_next {s t : State} {sp : Space} {a : Nat} {kind : AccessKind} {k : Out}
    (h : hostAccess s sp a kind k = .next t) :
    (spaceSize sp ≤ a ∧ t = s.raise .hostRange (.byte sp a)) ∨
    (a < spaceSize sp ∧ s.busy = true ∧ hazardous sp kind = true ∧ t = s.raise .hostHazard (.access sp a kind)) ∨
    (a < spaceSize sp ∧ (s.busy = true → hazardous sp kind = false) ∧ k = .next t) := by
  unfold hostAccess at h
  split at h
  · rename_i ha
    split at h
    · rename_i hb
      rw [Bool.and_eq_true] at hb
      exact .inr (.inl ⟨ha, hb.1, hb.2, by simpa using h.symm⟩)
    · rename_i hb
      exact .inr (.inr ⟨ha, by simpa using hb, h⟩)
  · rename_i ha
    exact .inl ⟨by omega, by simpa using h.symm⟩

/-- What a host read can answer as a next state. -/
theorem hostRead_next {s t : State} {sp : Space} {a : Nat} (h : hostRead sp a s = .next t) :
    (∃ c i, t = s.raise c i ∧ FaultRecord.consistent s.busy ⟨c, i⟩ = true) ∨
    (∃ v, s.readByte sp a = some v ∧ t = s.giveBack (.byte v)) := by
  rcases hostAccess_next h with ⟨ha, rfl⟩ | ⟨ha, hb, hz, rfl⟩ | ⟨ha, -, hk⟩
  · exact .inl ⟨_, _, rfl, by simpa [FaultRecord.consistent] using ha⟩
  · exact .inl ⟨_, _, rfl, by simp [FaultRecord.consistent, ha, hb, hz]⟩
  · split at hk
    · rename_i v hv; exact .inr ⟨v, hv, by simpa using hk.symm⟩
    · exact .inl ⟨_, _, by simpa using hk.symm, by simpa [FaultRecord.consistent] using ha⟩

/-- What a host write can answer as a next state. -/
theorem hostWrite_next {s t : State} {sp : Space} {a : Nat} {v : Byte} (h : hostWrite sp a v s = .next t) :
    (∃ c i, t = s.raise c i ∧ FaultRecord.consistent s.busy ⟨c, i⟩ = true) ∨
    (s.busy = false ∧ a < spaceSize sp ∧ t = s.writeByte sp a v) := by
  rcases hostAccess_next h with ⟨ha, rfl⟩ | ⟨ha, hb, hz, rfl⟩ | ⟨ha, hz, hk⟩
  · exact .inl ⟨_, _, rfl, by simpa [FaultRecord.consistent] using ha⟩
  · exact .inl ⟨_, _, rfl, by simp [FaultRecord.consistent, ha, hb, hz]⟩
  · refine .inr ⟨?_, ha, by simpa using hk.symm⟩
    cases hb : s.busy with
    | false => rfl
    | true => have := hz hb; cases sp <;> simp [hazardous] at this

/-- What a host read of a register can answer as a next state. -/
theorem hostReadReg_next {s t : State} {r : Reg} (h : hostReadReg r s = .next t) :
    (t = s.raise .unwrittenRead (.register r) ∧ s.view r = none ∧ r.hidden = false) ∨
    (∃ d, s.view r = some d ∧ r.hidden = false ∧ t = s.giveBack d) := by
  unfold hostReadReg at h
  split at h
  · exact absurd h (by simp)
  · rename_i hr
    simp only [Bool.not_eq_true] at hr
    split at h
    · rename_i d hd; exact .inr ⟨d, hd, hr, by simpa using h.symm⟩
    · rename_i hd; exact .inl ⟨by simpa using h.symm, hd, hr⟩

/-- What a teardown can answer as a next state (R121). -/
theorem hostRelease_next {s t : State} {sp : Space} (h : hostRelease sp s = .next t) :
    s.busy = true ∧ t = s.raise .hostHazard (.buffer sp) := by
  unfold hostRelease at h
  split at h
  · rename_i hb; exact ⟨hb, by simpa using h.symm⟩
  · exact absurd h (by simp)

end Sys2Proof.Machine
end

