-- ==== Sys2Proof/Laws/Frame.lean ====
section
/-! SUPPORT. The frame step, said once: either a FRAME byte holds no value and only a fault is recorded, or the six outputs of pixel `IDX` are written and the status moves on. -/

namespace Sys2Proof.Machine

/-- The state after the six writes of a frame step (R91). -/
@[irreducible] def State.storePixel (s : State) (i : Nat) (r g b : Byte) : State :=
  (((((s.writeByte .packed (packedAddr i 0) (packB0 r g)).writeByte .packed (packedAddr i 1) (packB1 g b)).writeByte
    .preview (channelAddr i 0) (quantR r)).writeByte .preview (channelAddr i 1) (quantG g)).writeByte
    .preview (channelAddr i 2) (quantB b)).writeByte .preview (channelAddr i 3) quantA

variable (s : State) (i : Nat) (r g b : Byte)

@[simp] theorem State.storePixel_resB0 : (s.storePixel i r g b).resB0 = s.resB0 := by
  simp only [State.storePixel, State.writeByte_resB0]
@[simp] theorem State.storePixel_resB1 : (s.storePixel i r g b).resB1 = s.resB1 := by
  simp only [State.storePixel, State.writeByte_resB1]
@[simp] theorem State.storePixel_resQR : (s.storePixel i r g b).resQR = s.resQR := by
  simp only [State.storePixel, State.writeByte_resQR]
@[simp] theorem State.storePixel_resQG : (s.storePixel i r g b).resQG = s.resQG := by
  simp only [State.storePixel, State.writeByte_resQG]
@[simp] theorem State.storePixel_resQB : (s.storePixel i r g b).resQB = s.resQB := by
  simp only [State.storePixel, State.writeByte_resQB]
@[simp] theorem State.storePixel_resQA : (s.storePixel i r g b).resQA = s.resQA := by
  simp only [State.storePixel, State.writeByte_resQA]
@[simp] theorem State.storePixel_busy : (s.storePixel i r g b).busy = s.busy := by
  simp only [State.storePixel, State.writeByte_busy]
@[simp] theorem State.storePixel_done : (s.storePixel i r g b).done = s.done := by
  simp only [State.storePixel, State.writeByte_done]
@[simp] theorem State.storePixel_idx : (s.storePixel i r g b).idx = s.idx := by
  simp only [State.storePixel, State.writeByte_idx]
@[simp] theorem State.storePixel_fault : (s.storePixel i r g b).fault = s.fault := by
  simp only [State.storePixel, State.writeByte_fault]
@[simp] theorem State.storePixel_frame : (s.storePixel i r g b).frame = s.frame := by
  simp only [State.storePixel, State.writeByte_packed_frame, State.writeByte_preview_frame]
@[simp] theorem State.storePixel_moves : (s.storePixel i r g b).moves = s.moves := by
  simp only [State.storePixel, State.writeByte_moves]
@[simp] theorem State.storePixel_answer : (s.storePixel i r g b).answer = s.answer := by
  simp only [State.storePixel, State.writeByte_answer]

@[simp] theorem State.storePixel_readFrame (a : Nat) :
    (s.storePixel i r g b).readByte .frame a = s.readByte .frame a := by
  simp only [State.readByte, State.mem, State.storePixel_frame]

/-- PACKED after the writes: the two bytes of the pixel, every other byte as before. -/
theorem State.storePixel_readPacked (a : Nat) :
    (s.storePixel i r g b).readByte .packed a =
      if a = packedAddr i 0 then some (packB0 r g)
      else if a = packedAddr i 1 then some (packB1 g b)
      else s.readByte .packed a := by
  have h01 : packedAddr i 1 ≠ packedAddr i 0 := by unfold packedAddr; omega
  simp only [State.storePixel, State.readByte_writeByte, reduceCtorEq, false_and, if_false, true_and, eq_comm (b := a)]
  by_cases h0 : a = packedAddr i 0
  · simp [h0, h01.symm]
  · simp [h0]

/-- PREVIEW after the writes: the four bytes of the pixel, every other byte as before. -/
theorem State.storePixel_readPreview (a : Nat) :
    (s.storePixel i r g b).readByte .preview a =
      if a = channelAddr i 0 then some (quantR r)
      else if a = channelAddr i 1 then some (quantG g)
      else if a = channelAddr i 2 then some (quantB b)
      else if a = channelAddr i 3 then some quantA
      else s.readByte .preview a := by
  simp only [State.storePixel, State.readByte_writeByte, reduceCtorEq, false_and, if_false, true_and, eq_comm (b := a)]
  by_cases h0 : a = channelAddr i 0
  · subst h0; simp [channelAddr]
  by_cases h1 : a = channelAddr i 1
  · subst h1; simp [channelAddr]
  by_cases h2 : a = channelAddr i 2
  · subst h2; simp [channelAddr]
  simp [h0, h1, h2]

/-- The outputs of the pixel just stored. -/
theorem State.storePixel_outputs : OutputsAre (s.storePixel i r g b) i r g b := by
  simp [OutputsAre, State.storePixel_readPacked, State.storePixel_readPreview, packedAddr, channelAddr]

variable {s i r g b}

/-- The outputs of any other pixel are as before. -/
theorem State.storePixel_outputs_other {j : Nat} {r' g' b' : Byte} (hj : j ≠ i) :
    OutputsAre (s.storePixel i r g b) j r' g' b' ↔ OutputsAre s j r' g' b' := by
  have p : ∀ c d, c < 2 → d < 2 → packedAddr j c ≠ packedAddr i d := fun c d hc hd h =>
    hj ((packedAddr_inj hc hd).1 h).1
  have q : ∀ c d, c < 4 → d < 4 → channelAddr j c ≠ channelAddr i d := fun c d hc hd h =>
    hj ((channelAddr_inj hc hd).1 h).1
  simp [OutputsAre, State.storePixel_readPacked, State.storePixel_readPreview, p, q]

/-- The writes of a pixel inside the frame all land (R97). -/
theorem writePixel_eq (hi : i < Config.pixels) (k : State → Out) :
    writePixel s i r g b k = k (s.storePixel i r g b) := by
  simp only [writePixel, State.storePixel, blockWrite_of_lt (packedAddr_lt hi (by decide : 0 < 2)),
    blockWrite_of_lt (packedAddr_lt hi (by decide : 1 < 2)),
    blockWrite_of_lt (channelAddr_lt_preview hi (by decide : 0 < 4)),
    blockWrite_of_lt (channelAddr_lt_preview hi (by decide : 1 < 4)),
    blockWrite_of_lt (channelAddr_lt_preview hi (by decide : 2 < 4)),
    blockWrite_of_lt (channelAddr_lt_preview hi (by decide : 3 < 4))]

/-- All three channels hold a value: the pixel is handed on. -/
theorem readPixel_of_values (hi : i < Config.pixels) (h : FrameHolds s i r g b) (k : Byte → Byte → Byte → Out) :
    readPixel s i k = k r g b := by
  obtain ⟨hr, hg, hb⟩ := h
  rw [readPixel, blockRead_of_value (channelAddr_lt_frame hi (by decide)) hr,
    blockRead_of_value (channelAddr_lt_frame hi (by decide)) hg,
    blockRead_of_value (channelAddr_lt_frame hi (by decide)) hb]

/-- The first channel without a value, in the order R, G, B, names the fault's address (R91, R105). -/
theorem readPixel_of_unwritten (hi : i < Config.pixels) {c : Nat} (hc : c < 3)
    (hv : s.readByte .frame (channelAddr i c) = none)
    (hbefore : ∀ d, d < c → (s.readByte .frame (channelAddr i d)).isSome = true) (k : Byte → Byte → Byte → Out) :
    readPixel s i k = .next (s.raise .unwrittenRead (.byte .frame (channelAddr i c))) := by
  have lt : ∀ d, d < 3 → channelAddr i d < spaceSize .frame := fun d hd => channelAddr_lt_frame hi (by omega)
  rw [readPixel]
  match c, hc with
  | 0, _ => rw [blockRead_of_none (lt 0 (by decide)) hv]
  | 1, _ =>
    obtain ⟨x, hx⟩ := Option.isSome_iff_exists.1 (hbefore 0 (by decide))
    rw [blockRead_of_value (lt 0 (by decide)) hx, blockRead_of_none (lt 1 (by decide)) hv]
  | 2, _ =>
    obtain ⟨x, hx⟩ := Option.isSome_iff_exists.1 (hbefore 0 (by decide))
    obtain ⟨y, hy⟩ := Option.isSome_iff_exists.1 (hbefore 1 (by decide))
    rw [blockRead_of_value (lt 0 (by decide)) hx, blockRead_of_value (lt 1 (by decide)) hy,
      blockRead_of_none (lt 2 (by decide)) hv]

/-- The frame step where all three channels hold a value. -/
theorem frameStep_of_values (h : FrameHolds s s.idx.val r g b) :
    frameStep s = .next (s.storePixel s.idx.val r g b).endPixel := by
  rw [frameStep, readPixel_of_values s.idx.isLt h, writePixel_eq s.idx.isLt]

/-- The frame step where a channel holds no value. -/
theorem frameStep_of_unwritten {c : Nat} (hc : c < 3) (hv : s.readByte .frame (channelAddr s.idx.val c) = none)
    (hbefore : ∀ d, d < c → (s.readByte .frame (channelAddr s.idx.val d)).isSome = true) :
    frameStep s = .next (s.raise .unwrittenRead (.byte .frame (channelAddr s.idx.val c))) := by
  rw [frameStep, readPixel_of_unwritten s.idx.isLt hc hv hbefore]

/-- Everything a frame step can do. -/
theorem frameStep_cases (s : State) :
    (∃ r g b, FrameHolds s s.idx.val r g b ∧ frameStep s = .next (s.storePixel s.idx.val r g b).endPixel) ∨
    (∃ c, c < 3 ∧ s.readByte .frame (channelAddr s.idx.val c) = none ∧
      (∀ d, d < c → (s.readByte .frame (channelAddr s.idx.val d)).isSome = true) ∧
      frameStep s = .next (s.raise .unwrittenRead (.byte .frame (channelAddr s.idx.val c)))) := by
  cases hr : s.readByte .frame (channelAddr s.idx.val 0) with
  | none =>
    exact .inr ⟨0, by decide, hr, fun d hd => absurd hd (Nat.not_lt_zero d),
      frameStep_of_unwritten (by decide) hr fun d hd => absurd hd (Nat.not_lt_zero d)⟩
  | some r =>
    cases hg : s.readByte .frame (channelAddr s.idx.val 1) with
    | none =>
      have before : ∀ d, d < 1 → (s.readByte .frame (channelAddr s.idx.val d)).isSome = true := by
        intro d hd; obtain rfl : d = 0 := by omega
        simp [hr]
      exact .inr ⟨1, by decide, hg, before, frameStep_of_unwritten (by decide) hg before⟩
    | some g =>
      cases hb : s.readByte .frame (channelAddr s.idx.val 2) with
      | none =>
        have before : ∀ d, d < 2 → (s.readByte .frame (channelAddr s.idx.val d)).isSome = true := by
          intro d hd
          obtain rfl | rfl : d = 0 ∨ d = 1 := by omega
          · simp [hr]
          · simp [hg]
        exact .inr ⟨2, by decide, hb, before, frameStep_of_unwritten (by decide) hb before⟩
      | some b => exact .inl ⟨r, g, b, ⟨hr, hg, hb⟩, frameStep_of_values ⟨hr, hg, hb⟩⟩

end Sys2Proof.Machine
end

