-- ==== Sys2Proof/Laws/Assembler.lean ====
section
/-! SUPPORT. What one round of the polling loop of `WAIT` does, and what the loop answers after it (30_encoding.md R69). -/

namespace Sys2Proof.Machine

/-- A `NOP` answers a next state in every state. -/
theorem exec_nop_next (s : State) : ∃ t, exec .nop s = .next t := by
  simp only [exec, execNop, unlessFaulted]
  split
  · exact ⟨s, rfl⟩
  · split
    · rcases frameStep_cases s with ⟨r, g, b, -, h⟩ | ⟨c, -, -, -, h⟩ <;> exact ⟨_, h⟩
    · exact ⟨s, rfl⟩

/-- Everything a round of polling does: the `NOP`, then `DONE` handed back. -/
theorem pollRound_next (s : State) : ∃ t, exec .nop (s.takeMove s.moves) = .next t ∧
    pollRound s = .next ((t.takeMove t.moves).giveBack (.bit t.done)) := by
  obtain ⟨t, ht⟩ := exec_nop_next (s.takeMove s.moves)
  refine ⟨t, ht, ?_⟩
  have hp : perform asmNop (s.takeMove s.moves) = .next t := ht
  simp only [pollRound, hp]
  rfl

/-- The loop ends with the round that reads `DONE = 1`. -/
theorem asmWaitWithin_done {s t : State} (n : Nat) (h : exec .nop (s.takeMove s.moves) = .next t) (hd : t.done = true) :
    asmWaitWithin (n + 1) s = some (asmPoll 1) := by
  obtain ⟨u, hu, hp⟩ := pollRound_next s
  obtain rfl : t = u := Host.Outcome.next.inj (h.symm.trans hu)
  simp [asmWaitWithin, hp, hd]

/-- The loop goes on after a round that reads `DONE = 0`. -/
theorem asmWaitWithin_again {s t : State} (n : Nat) (h : exec .nop (s.takeMove s.moves) = .next t)
    (hd : t.done = false) : asmWaitWithin (n + 1) s =
      (asmWaitWithin n ((t.takeMove t.moves).giveBack (.bit false))).map fun ms => asmNop :: .readReg .done :: ms := by
  obtain ⟨u, hu, hp⟩ := pollRound_next s
  obtain rfl : t = u := Host.Outcome.next.inj (h.symm.trans hu)
  simp [asmWaitWithin, hp, hd]

end Sys2Proof.Machine
end

