-- ==== Sys2Proof/Laws/PerInstr.lean ====
section
/-! SUPPORT. A statement about every command as syntax: its encoding lies under its own row of spec/opcode_table.json. -/

namespace Sys2Proof.Laws.RowMatch

/-- The mask of the three rows of spec/opcode_table.json. -/
def mask : IssueWord := 0x300000000#34

/-- The match of a command's row of spec/opcode_table.json. -/
def rowMatch : Instr → IssueWord
  | .nop => 0x000000000#34
  | .convertPixel _ _ _ _ => 0x100000000#34
  | .convertFrame => 0x200000000#34

/-- The encoding of a command, under the mask, is its row's match. -/
def Statement (i : Instr) : Prop := encode i &&& mask = rowMatch i

theorem nop : Statement .nop := by unfold Statement; decide

theorem convertPixel (r g b a : Byte) : Statement (.convertPixel r g b a) := by
  unfold Statement encode Instr.ports Ports.issueWord mask rowMatch Instr.cmd
  apply BitVec.eq_of_getElem_eq
  intro k hk
  simp only [BitVec.getElem_and, BitVec.getElem_append]
  by_cases h : k < 32
  · have : (0x300000000#34)[k] = false ∧ (0x100000000#34)[k] = false := by
      revert k; decide
    simp [this]
  · obtain rfl | rfl : k = 32 ∨ k = 33 := by omega
    · simp
    · simp

theorem convertFrame : Statement .convertFrame := by unfold Statement; decide

end Sys2Proof.Laws.RowMatch
end

