-- ==== Sys2Proof/Laws/Pixel.lean ====
section
/-! SUPPORT. The pixel functions as arithmetic: each output as a number, so that a law of the packed bits is a linear fact. -/

namespace Sys2Proof.Machine

/-- Concatenation as a number. -/
theorem toNat_append_eq {n m : Nat} (x : BitVec n) (y : BitVec m) : (x ++ y).toNat = x.toNat * 2 ^ m + y.toNat := by
  rw [BitVec.toNat_append, ← Nat.shiftLeft_add_eq_or_of_lt y.isLt, Nat.shiftLeft_eq]

theorem toNat_keepHigh5 (v : Byte) : (v &&& 0xF8#8).toNat = v.toNat / 8 * 8 := by revert v; decide

theorem toNat_keepHigh6 (v : Byte) : (v &&& 0xFC#8).toNat = v.toNat / 4 * 4 := by revert v; decide

theorem toNat_greenLow (g : Byte) : ((g &&& 0x1C#8) <<< 3).toNat = g.toNat / 4 % 8 * 32 := by revert g; decide

theorem quantR_toNat (r : Byte) : (quantR r).toNat = r.toNat / 8 * 8 := toNat_keepHigh5 r

theorem quantG_toNat (g : Byte) : (quantG g).toNat = g.toNat / 4 * 4 := toNat_keepHigh6 g

theorem quantB_toNat (b : Byte) : (quantB b).toNat = b.toNat / 8 * 8 := toNat_keepHigh5 b

/-- The OR of a multiple of `2^k` and a number below `2^k` is their sum. -/
theorem or_eq_add_of_apart {k a b : Nat} (hb : b < 2 ^ k) : a * 2 ^ k ||| b = a * 2 ^ k + b := by
  rw [Nat.mul_comm, ← Nat.two_pow_add_eq_or_of_lt hb]

theorem packB0_toNat (r g : Byte) : (packB0 r g).toNat = r.toNat / 8 * 8 + g.toNat / 32 := by
  have hg := g.isLt
  rw [packB0, BitVec.toNat_or, toNat_keepHigh5, BitVec.toNat_ushiftRight, Nat.shiftRight_eq_div_pow]
  exact or_eq_add_of_apart (k := 3) (by omega)

theorem packB1_toNat (g b : Byte) : (packB1 g b).toNat = g.toNat / 4 % 8 * 32 + b.toNat / 8 := by
  have hb := b.isLt
  rw [packB1, BitVec.toNat_or, toNat_greenLow, BitVec.toNat_ushiftRight, Nat.shiftRight_eq_div_pow]
  exact or_eq_add_of_apart (k := 5) (by omega)

theorem packWord_toNat (r g b : Byte) :
    (packWord r g b).toNat = (packB0 r g).toNat * 256 + (packB1 g b).toNat := toNat_append_eq _ _

end Sys2Proof.Machine
end

