-- ==== Sys2Proof/Laws/Step.lean ====
section
/-! SUPPORT. What a step can do, said once: every next state of a host move is one of eight effects, and a step takes the next move. Invariants are case analyses over it. -/

namespace Sys2Proof.Machine

/-- Everything a host move can do to a state it answers a next state for. -/
inductive Effect (m : HostMove) (s : State) : State → Prop
  /-- The block takes no step because a fault is recorded, or idles on a `NOP` (R84, R109). -/
  | stays (p : Ports) (hm : m = .drive p) (hr : p.rst = false)
      (h : (∃ f, s.fault = some f) ∨ (p.cmd = 0b00#2 ∧ s.busy = false)) : Effect m s s
  /-- A fault is raised and nothing else happens (R107). -/
  | raises (c : FaultCause) (i : FaultInfo) (hm : ∀ p, m = .drive p → p.rst = false ∧ s.fault = none)
      (hc : FaultRecord.consistent s.busy ⟨c, i⟩ = true) : Effect m s (s.raise c i)
  /-- A reset step (R120). -/
  | resets (p : Ports) (hm : m = .drive p) (hr : p.rst = true) : Effect m s s.resetStep
  /-- `CONVERT_PIXEL` (R85). -/
  | converts (p : Ports) (hm : m = .drive p) (hr : p.rst = false) (hc : p.cmd = 0b01#2)
      (hf : s.fault = none) (hb : s.busy = false) : Effect m s (s.setResults p.pixR p.pixG p.pixB)
  /-- `CONVERT_FRAME` (R90). -/
  | begins (p : Ports) (hm : m = .drive p) (hr : p.rst = false) (hc : p.cmd = 0b10#2)
      (hf : s.fault = none) (hb : s.busy = false) : Effect m s s.beginFrame
  /-- The frame step of a `NOP` while `BUSY = 1` (R91). -/
  | converted (p : Ports) (hm : m = .drive p) (hr : p.rst = false) (hc : p.cmd = 0b00#2)
      (hf : s.fault = none) (hb : s.busy = true) (r g b : Byte) (hp : FrameHolds s s.idx.val r g b) :
      Effect m s (s.storePixel s.idx.val r g b).endPixel
  /-- A host read gives a value back (R118, R35). -/
  | answers (d : HostData) (hm : (∃ sp a, m = .read sp a) ∨ ∃ r, m = .readReg r) : Effect m s (s.giveBack d)
  /-- A host write of a byte (R118). -/
  | writes (sp : Space) (a : Nat) (v : Byte) (hm : m = .write sp a v) (hb : s.busy = false)
      (ha : a < spaceSize sp) : Effect m s (s.writeByte sp a v)

/-- The two bits of a command that is none of the three commands are `11`. -/
theorem cmd_reserved {c : Cmd} (h0 : c ≠ 0b00#2) (h1 : c ≠ 0b01#2) (h2 : c ≠ 0b10#2) : c = 0b11#2 := by
  revert c; decide

theorem blockStep_effect {p : Ports} {s t : State} (h : blockStep p s = .next t) : Effect (.drive p) s t := by
  unfold blockStep at h
  split at h
  · rename_i hr
    obtain rfl : s.resetStep = t := by simpa using h
    exact .resets p rfl hr
  · rename_i hr
    have hr : p.rst = false := by simpa using hr
    have hraise : s.fault = none → ∀ q, HostMove.drive p = .drive q → q.rst = false ∧ s.fault = none := by
      intro hf q hq
      obtain rfl : p = q := by simpa using hq
      exact ⟨hr, hf⟩
    unfold decodePorts at h
    by_cases h0 : p.cmd = 0b00#2
    · simp only [h0, if_true, exec, execNop] at h
      rcases unlessFaulted_next h with ⟨hf, rfl⟩ | ⟨hf, h⟩
      · exact .stays p rfl hr (.inl hf)
      · split at h
        · rename_i hb
          rcases frameStep_cases s with ⟨r, g, b, hp, he⟩ | ⟨c, hc, -, -, he⟩
          · rw [he] at h
            obtain rfl : _ = t := Host.Outcome.next.inj h
            exact .converted p rfl hr h0 hf hb r g b hp
          · rw [he] at h
            obtain rfl : _ = t := Host.Outcome.next.inj h
            refine .raises _ _ (hraise hf) ?_
            have := channelAddr_lt_frame s.idx.isLt (show c < 4 by omega)
            simpa [FaultRecord.consistent] using this
        · rename_i hb
          obtain rfl : s = t := by simpa using h
          exact .stays p rfl hr (.inr ⟨h0, by simpa using hb⟩)
    by_cases h1 : p.cmd = 0b01#2
    · simp only [h1, if_true, exec, execConvertPixel, show ¬ (0b01#2 : Cmd) = 0b00#2 by decide, if_false] at h
      rcases unlessFaulted_next h with ⟨hf, rfl⟩ | ⟨hf, h⟩
      · exact .stays p rfl hr (.inl hf)
      · rcases unlessBusy_next h with ⟨hb, rfl⟩ | ⟨hb, h⟩
        · exact .raises _ _ (hraise hf) (by simp [FaultRecord.consistent, hb])
        · obtain rfl : _ = t := Host.Outcome.next.inj h
          exact .converts p rfl hr h1 hf hb
    by_cases h2 : p.cmd = 0b10#2
    · simp only [h2, if_true, exec, execConvertFrame, show ¬ (0b10#2 : Cmd) = 0b00#2 by decide,
        show ¬ (0b10#2 : Cmd) = 0b01#2 by decide, if_false] at h
      rcases unlessFaulted_next h with ⟨hf, rfl⟩ | ⟨hf, h⟩
      · exact .stays p rfl hr (.inl hf)
      · rcases unlessBusy_next h with ⟨hb, rfl⟩ | ⟨hb, h⟩
        · exact .raises _ _ (hraise hf) (by simp [FaultRecord.consistent, hb])
        · obtain rfl : _ = t := Host.Outcome.next.inj h
          exact .begins p rfl hr h2 hf hb
    simp only [h0, h1, h2, if_false] at h
    rcases unlessFaulted_next h with ⟨hf, rfl⟩ | ⟨hf, h⟩
    · exact .stays p rfl hr (.inl hf)
    · obtain rfl : _ = t := Host.Outcome.next.inj h
      exact .raises _ _ (hraise hf) (by simpa [FaultRecord.consistent] using cmd_reserved h0 h1 h2)

/-- Every next state of a host move is one of the eight effects. -/
theorem perform_effect {m : HostMove} {s t : State} (h : perform m s = .next t) : Effect m s t := by
  cases m with
  | drive p => exact blockStep_effect h
  | read sp a =>
    rcases hostRead_next h with ⟨c, i, rfl, hc⟩ | ⟨v, -, rfl⟩
    · exact .raises c i (by simp) hc
    · exact .answers _ (.inl ⟨sp, a, rfl⟩)
  | write sp a v =>
    rcases hostWrite_next h with ⟨c, i, rfl, hc⟩ | ⟨hb, ha, rfl⟩
    · exact .raises c i (by simp) hc
    · exact .writes sp a v rfl hb ha
  | readReg r =>
    rcases hostReadReg_next h with ⟨rfl, hv, hh⟩ | ⟨d, -, -, rfl⟩
    · refine .raises _ _ (by simp) ?_
      cases r <;> simp_all [FaultRecord.consistent, State.view, Reg.hidden]
    · exact .answers d (.inr ⟨r, rfl⟩)
  | release sp =>
    obtain ⟨hb, rfl⟩ := hostRelease_next h
    exact .raises _ _ (by simp) (by simp [FaultRecord.consistent, hb])
  | writeReg r v => exact absurd h (by simp [perform, hostWriteReg])
  | setParameter p v => exact absurd h (by simp [perform, hostSetParameter])

theorem step_of_no_move {s : State} (h : s.moves = []) : step s = .next s := by simp [step, h]

theorem step_of_move {s : State} {m : HostMove} {rest : List HostMove} (h : s.moves = m :: rest) :
    step s = perform m (s.takeMove rest) := by simp [step, h]

/-- Everything a step can do: nothing, with no move left, or the effect of the next move. -/
theorem step_effect {s t : State} (h : step s = .next t) :
    (s.moves = [] ∧ t = s) ∨ ∃ m rest, s.moves = m :: rest ∧ Effect m (s.takeMove rest) t := by
  cases hm : s.moves with
  | nil => rw [step_of_no_move hm] at h; exact .inl ⟨rfl, (Host.Outcome.next.inj h).symm⟩
  | cons m rest => rw [step_of_move hm] at h; exact .inr ⟨m, rest, rfl, perform_effect h⟩

end Sys2Proof.Machine
end

