-- ==== Sys2Proof/Tests/Slice0.lean ====
section
/-! SUPPORT. The model's own tests: the WellFormed smoke, words written out from the encoding, the spec's worked examples and vectors (95_test_vectors.md), and for every statement with hypotheses a state and operands that meet them. -/

namespace Sys2Proof.Tests

open Sys2Proof Sys2Proof.Machine

/-! ## Helpers -/

/-- The next state of an outcome, if it is one. -/
def after : Out → Option State
  | .next s => some s
  | .fault _ => none
  | .refused _ => none

/-- A field of the next state of an outcome. -/
def field {α : Type} (o : Out) (f : State → α) : Option α := (after o).map f

/-- A command and pixel port driven in a step without reset, as `cmd:RRGGBBAA` writes them. -/
def ports (cmd : Cmd) (r g b a : Byte) : Ports := ⟨false, cmd, r, g, b, a⟩

/-- The ports of a reset step. -/
def resetPorts : Ports := ⟨true, 0b11#2, 0, 0, 0, 0⟩

/-- `BUSY = 1` at pixel 5, FRAME pixel 5 = (FF,80,3C,7F): the state before vector V7. -/
def busy5 : State :=
  { State.reset with
    busy := true
    idx := ⟨5, by decide⟩
    frame := [(20, 0xFF#8), (21, 0x80#8), (22, 0x3C#8), (23, 0x7F#8)] }

/-- `BUSY = 1` at the last pixel, FRAME pixel 20479 = (9F,FE,1E,FF): the state before vector V8. -/
def busyLast : State :=
  { State.reset with
    busy := true
    idx := ⟨20479, by decide⟩
    frame := [(81916, 0x9F#8), (81917, 0xFE#8), (81918, 0x1E#8), (81919, 0xFF#8)] }

/-- `BUSY = 1` at pixel 1, of which nothing is in FRAME: the state before vector F8. -/
def busyUnwritten : State :=
  { State.reset with busy := true, idx := ⟨1, by decide⟩, frame := [(0, 0xFF#8)] }

/-- A state with a recorded fault. -/
def faulted : State := { State.reset with fault := some ⟨.illegalCmd, .cmd 0b11#2⟩ }

/-- A state with the given moves still to come. -/
def withMoves (s : State) (ms : List HostMove) : State := { s with moves := ms }

/-! ## WellFormed smoke: an ill-formed term for each check -/

theorem test_wf_width_zero : Geometry.wellFormed ⟨0, 128, 15⟩ = false := by decide
theorem test_wf_height_zero : Geometry.wellFormed ⟨160, 0, 15⟩ = false := by decide
theorem test_wf_index_too_narrow : Geometry.wellFormed ⟨160, 128, 14⟩ = false := by decide
theorem test_wf_instance_2x2 : Geometry.wellFormed ⟨2, 2, 15⟩ = true := by decide
theorem test_wf_frame_packed_overlap : Placement.wellFormed ⟨0, 81919, 200000⟩ = false := by decide
theorem test_wf_frame_preview_overlap : Placement.wellFormed ⟨100000, 0, 40000⟩ = false := by decide
theorem test_wf_packed_preview_overlap : Placement.wellFormed ⟨0, 100000, 140959⟩ = false := by decide
theorem test_wf_apart : Placement.wellFormed ⟨0, 81920, 122880⟩ = true := by decide
theorem test_wf_no_cycle : Platform.wellFormed ⟨0, [], none, false⟩ = false := by decide
theorem test_wf_platform_overlap : Platform.wellFormed ⟨1, [], some ⟨0, 0, 0⟩, false⟩ = false := by decide
theorem test_wf_hidden_read : HostMove.wellFormed (.readReg .idx) = false := by decide
theorem test_wf_register_write : HostMove.wellFormed (.writeReg .done 1#16) = false := by decide
theorem test_wf_parameter : HostMove.wellFormed (.setParameter .width 2) = false := by decide

/-! ## Decoding: words written out bit by bit from R60's fields (cmd, R, G, B, A) -/

theorem test_decode_nop :
    decode 0b0000000000000000000000000000000000#34 = .ok .nop := by decide
theorem test_decode_nop_ignored_bits :
    decode 0b0011111111000000001010101001010101#34 = .ok .nop := by decide
theorem test_decode_convertPixel :
    decode 0b0100010010001101000101011001111000#34 = .ok (.convertPixel 0x12#8 0x34#8 0x56#8 0x78#8) := by decide
theorem test_decode_convertFrame :
    decode 0b1000000000000000000000000000000000#34 = .ok .convertFrame := by decide
theorem test_decode_reserved :
    decode 0b1100000000000000000000000000000000#34 = .error (.reservedCommand 0b11#2) := by decide
theorem test_decodeTableWord :
    decodeTableWord 40 0x1FF803C00 = some (.convertPixel 0xFF#8 0x80#8 0x3C#8 0x00#8) := by decide
theorem test_encode_convertPixel : encode (.convertPixel 0xFF#8 0x80#8 0x3C#8 0x00#8) = 0x1FF803C00#34 := by decide
theorem test_encode_convertFrame : encode .convertFrame = 0x200000000#34 := by decide

/-! ## Pixel functions (95_test_vectors.md, S1 and section 2.1) -/

theorem test_pixel_white :
    (quantR 0xFF#8, quantG 0xFF#8, quantB 0xFF#8, quantA, packB0 0xFF#8 0xFF#8, packB1 0xFF#8 0xFF#8) =
      (0xF8#8, 0xFC#8, 0xF8#8, 0x00#8, 0xFF#8, 0xFF#8) := by decide
theorem test_pixel_lowest_kept_bits : packWord 0x08#8 0x04#8 0x08#8 = 0x0821#16 := by decide
theorem test_pixel_dropped_bits : packWord 0x07#8 0x03#8 0x07#8 = 0x0000#16 := by decide
theorem test_pixel_green_crosses : packWord 0x00#8 0x20#8 0x00#8 = 0x0100#16 := by decide
theorem test_pixel_mixed : packWord 0xAB#8 0xCD#8 0xEF#8 = 0xAE7D#16 := by decide
theorem test_pixel_one_bit_clear : packWord 0xF7#8 0xFB#8 0xF7#8 = 0xF7DE#16 := by decide
theorem test_unpack : unpack 0xAE#8 0x7D#8 = (0xA8#8, 0xCC#8, 0xE8#8) := by decide

/-! ## Commands (95_test_vectors.md, section 2.2) -/

/-- V2. -/
theorem test_convertPixel_V2 :
    field (exec (.convertPixel 0xFF#8 0x80#8 0x3C#8 0x00#8) State.reset)
      (fun t => [t.resB0, t.resB1, t.resQR, t.resQG, t.resQB, t.resQA]) =
    some [some 0xFC#8, some 0x07#8, some 0xF8#8, some 0x80#8, some 0x38#8, some 0x00#8] := by decide

/-- F3. -/
theorem test_convertPixel_F3 :
    field (exec (.convertPixel 1#8 2#8 3#8 4#8) busy5) (fun t => (t.fault, t.resB0)) =
      some (some ⟨.busyCmd, .cmd 0b01#2⟩, none) := by decide

/-- V6. -/
theorem test_convertFrame_V6 :
    field (exec .convertFrame { State.reset with done := true }) (fun t => (t.busy, t.done, t.idx.val)) =
      some (true, false, 0) := by decide

/-- F4. -/
theorem test_convertFrame_F4 :
    field (exec .convertFrame busy5) (fun t => (t.fault, t.idx.val)) =
      some (some ⟨.busyCmd, .cmd 0b10#2⟩, 5) := by decide

/-- V7. -/
theorem test_nop_V7 :
    field (exec .nop busy5) (fun t => (t.packed, t.preview, t.idx.val, t.busy)) =
      some ([(10, 0xFC#8), (11, 0x07#8)], [(20, 0xF8#8), (21, 0x80#8), (22, 0x38#8), (23, 0x00#8)], 6, true) := by
  decide

/-- V8. -/
theorem test_nop_V8 :
    field (exec .nop busyLast) (fun t => (t.packed, t.preview, t.idx.val, t.busy, t.done)) =
      some ([(40958, 0x9F#8), (40959, 0xE3#8)],
        [(81916, 0x98#8), (81917, 0xFC#8), (81918, 0x18#8), (81919, 0x00#8)], 20479, false, true) := by decide

/-! ## Faults, host accesses and reset (95_test_vectors.md, section 2.3) -/

/-- F2: the reserved command ahead of BUSY_CMD. -/
theorem test_step_F2 :
    field (step (withMoves busy5 [.drive (ports 0b11#2 0 0 0 0)])) (fun t => t.fault) =
      some (some ⟨.illegalCmd, .cmd 0b11#2⟩) := by decide

/-- F5: no step in a faulted state. -/
theorem test_step_F5 : after (step (withMoves faulted [asmNop])) = some faulted := by decide

/-- F6: the way out of a fault. -/
theorem test_step_F6 : after (step (withMoves faulted [asmReset])) = some State.reset := by decide

/-- F7. -/
theorem test_read_F7 :
    field (perform (.readReg .resB0) State.reset) (fun t => t.fault) =
      some (some ⟨.unwrittenRead, .register .resB0⟩) := by decide

/-- F8. -/
theorem test_nop_F8 :
    field (exec .nop busyUnwritten) (fun t => (t.fault, t.packed, t.idx.val)) =
      some (some ⟨.unwrittenRead, .byte .frame 4⟩, [], 1) := by decide

/-- F9: FRAME may be read while BUSY = 1. -/
theorem test_read_F9 :
    field (perform (.read .frame 0) busyUnwritten) (fun t => (t.answer, t.fault)) =
      some (some (.byte 0xFF#8), none) := by decide

/-- F10. -/
theorem test_read_F10 :
    field (perform (.read .packed 0) busy5) (fun t => t.fault) =
      some (some ⟨.hostHazard, .access .packed 0 .read⟩) := by decide

/-- F11. -/
theorem test_write_F11 :
    field (perform (.write .frame 0 1#8) busy5) (fun t => (t.fault, t.frame == busy5.frame)) =
      some (some ⟨.hostHazard, .access .frame 0 .write⟩, true) := by decide

/-- F13. -/
theorem test_read_F13 :
    field (perform (.read .packed 40960) State.reset) (fun t => t.fault) =
      some (some ⟨.hostRange, .byte .packed 40960⟩) := by decide

/-- F14, F15: a reset discards the outputs only while BUSY = 1. -/
theorem test_reset_F14_F15 :
    field (perform asmReset { busy5 with packed := [(0, 1#8)] }) (fun t => (t.packed, t.frame == busy5.frame)) =
      some ([], true) ∧
    field (perform asmReset { State.reset with packed := [(0, 1#8)], done := true }) (fun t => (t.packed, t.done)) =
      some ([(0, 1#8)], false) := by decide

/-- P1: RES_WORD after `PIXEL 0x12, 0x34, 0x56, 0x78`. -/
theorem test_read_resWord_P1 :
    field (perform (.readReg .resWord) (State.reset.setResults 0x12#8 0x34#8 0x56#8)) (fun t => t.answer) =
      some (some (.word 0x11AA#16)) := by decide

/-- A write below a listed address keeps the addresses rising, and a second write of the byte replaces it. -/
theorem test_write_canonical :
    Memory.write (Memory.write [(3, 1#8)] 2 7#8) 3 9#8 = [(2, 7#8), (3, 9#8)] := by decide

/-- The word placed to be fetched is the one the next step runs. -/
theorem test_withFetchWord :
    field (step (State.reset.withFetchWord 40 0x1FF803C00)) (fun t => (t.resB0, t.resB1, t.moves)) =
      some (some 0xFC#8, some 0x07#8, []) := by decide

theorem test_withFetchWord_frame :
    field (step (State.reset.withFetchWord 40 0x200000000)) (fun t => t.busy) = some true := by decide

/-! ## Witnesses: every statement's hypotheses are met -/

/-- A memory of `n` zero bytes. -/
def zeros (n : Nat) : Memory := (List.range n).map fun a => (a, 0x00#8)

theorem zeros_wf (n : Nat) : (zeros n).wf := by
  unfold Memory.wf zeros
  rw [List.pairwise_map]
  exact List.pairwise_lt_range

theorem zeros_within (n : Nat) : (zeros n).within n := by
  unfold zeros
  intro c hc
  obtain ⟨a, ha, rfl⟩ := List.mem_map.1 hc
  exact List.mem_range.1 ha

theorem read_of_mem_zero {m : Memory} (hz : ∀ c ∈ m, c.2 = 0x00#8) {a : Nat} (ha : (a, 0x00#8) ∈ m) :
    m.read a = some 0x00#8 := by
  induction m with
  | nil => simp at ha
  | cons c m ih =>
    obtain ⟨k, v⟩ := c
    have hv : v = 0x00#8 := hz _ List.mem_cons_self
    simp only [Memory.read]
    split
    · rw [hv]
    · rename_i hk
      rcases List.mem_cons.1 ha with h | h
      · exact absurd (congrArg Prod.fst h).symm hk
      · exact ih (fun c hc => hz c (List.mem_cons_of_mem _ hc)) h

theorem zeros_read {n a : Nat} (ha : a < n) : (zeros n).read a = some 0x00#8 := by
  unfold zeros
  refine read_of_mem_zero ?_ (List.mem_map.2 ⟨a, List.mem_range.2 ha, rfl⟩)
  intro c hc
  obtain ⟨b, -, rfl⟩ := List.mem_map.1 hc
  rfl

/-- An idle state with a given FRAME. -/
def loadedWith (f : Memory) : State := { State.reset with frame := f }

/-- A frame at its last pixel, with given contents of the three spaces. -/
def convertedWith (f p v : Memory) : State :=
  { State.reset with busy := true, idx := ⟨20479, by decide⟩, frame := f, packed := p, preview := v }

/-- Every byte below `n` is zero in a memory. -/
def ZeroBelow (m : Memory) (n : Nat) : Prop := ∀ a, a < n → m.read a = some 0x00#8

theorem loadedWith_frameLoaded {f : Memory} (hf : ZeroBelow f Config.frameBytes) : FrameLoaded (loadedWith f) := by
  intro i c hi hc
  have : (loadedWith f).readByte .frame (channelAddr i c) = some 0x00#8 :=
    hf _ (channelAddr_lt_frame hi (show c < 4 by omega))
  rw [this]; rfl

theorem loadedWith_holds {f : Memory} (hf : ZeroBelow f Config.frameBytes) {i : Nat} (hi : i < Config.pixels) :
    FrameHolds (loadedWith f) i 0 0 0 :=
  ⟨hf _ (channelAddr_lt_frame hi (by decide)), hf _ (channelAddr_lt_frame hi (by decide)),
    hf _ (channelAddr_lt_frame hi (by decide))⟩

theorem loadedWith_inv {f : Memory} (h : f.wf) (h' : f.within Config.frameBytes) : Inv (loadedWith f) where
  frame_wf := h
  packed_wf := List.Pairwise.nil
  preview_wf := List.Pairwise.nil
  frame_within := h'
  packed_within := by intro c hc; cases hc
  preview_within := by intro c hc; cases hc
  not_busy_done := by simp [loadedWith, State.reset]
  results := .inl ⟨rfl, rfl, rfl, rfl, rfl, rfl⟩
  fault_described := by intro f hf; cases hf

theorem convertedWith_holds {f p v : Memory} (hf : ZeroBelow f Config.frameBytes) {i : Nat} (hi : i < Config.pixels) :
    FrameHolds (convertedWith f p v) i 0 0 0 :=
  ⟨hf _ (channelAddr_lt_frame hi (by decide)), hf _ (channelAddr_lt_frame hi (by decide)),
    hf _ (channelAddr_lt_frame hi (by decide))⟩

theorem convertedWith_progress {f p v : Memory} (hf : ZeroBelow f Config.frameBytes)
    (hp : ZeroBelow p Config.packedBytes) (hv : ZeroBelow v Config.previewBytes) (ms : List HostMove) :
    FrameProgress (withMoves (convertedWith f p v) ms) := by
  intro _ i hi
  have hi : i < Config.pixels := Nat.lt_trans hi (convertedWith f p v).idx.isLt
  exact ⟨0, 0, 0, convertedWith_holds (p := p) (v := v) hf hi, hp _ (packedAddr_lt hi (by decide)), hp _ (packedAddr_lt hi (by decide)),
    hv _ (channelAddr_lt_preview hi (by decide)), hv _ (channelAddr_lt_preview hi (by decide)),
    hv _ (channelAddr_lt_preview hi (by decide)), hv _ (channelAddr_lt_preview hi (by decide))⟩

theorem convertedWith_ends {f p v : Memory} (hf : ZeroBelow f Config.frameBytes) :
    ∃ t, step (withMoves (convertedWith f p v) [asmNop]) = .next t ∧ t.busy = false ∧ t.done = true := by
  have h : FrameHolds (convertedWith f p v) (convertedWith f p v).idx.val 0 0 0 :=
    convertedWith_holds hf (convertedWith f p v).idx.isLt
  have he : step (withMoves (convertedWith f p v) [asmNop]) = frameStep (convertedWith f p v) := rfl
  have hl : ¬ ((convertedWith f p v).storePixel (convertedWith f p v).idx.val 0 0 0).idx.val + 1 < Config.pixels := by
    rw [State.storePixel_idx]; exact (by decide : ¬ 20479 + 1 < Config.pixels)
  exact ⟨_, he.trans (frameStep_of_values h), (State.endPixel_last hl).1, (State.endPixel_last hl).2.1⟩

/-- A memory of zeros in canonical form. -/
theorem zeros_exist (n : Nat) : ∃ m : Memory, m.wf ∧ m.within n ∧ ZeroBelow m n :=
  ⟨zeros n, zeros_wf n, zeros_within n, fun _ ha => zeros_read ha⟩

/-- A `NOP` step of a state with FRAME loaded and no fault records none and leaves FRAME and the moves. -/
theorem nop_of_loaded {s : State} (hL : FrameLoaded s) (hf : s.fault = none) :
    ∃ t, exec .nop s = .next t ∧ t.fault = none ∧ t.frame = s.frame ∧ t.moves = s.moves := by
  cases hb : s.busy with
  | false => exact ⟨s, by simp only [exec, execNop, unlessFaulted_of_none hf, hb]; rfl, hf, rfl, rfl⟩
  | true =>
    have he : exec .nop s = frameStep s := by simp only [exec, execNop, unlessFaulted_of_none hf, hb]; rfl
    rcases frameStep_cases s with ⟨r, g, b, -, hs⟩ | ⟨c, hc, hn, -, -⟩
    · exact ⟨_, he.trans hs, by simp [hf], by simp, by simp⟩
    · have := hL s.idx.val c s.idx.isLt hc
      rw [hn] at this; cases this

/-- `NOP` steps alone meet no fault where FRAME is loaded. -/
theorem nops_of_loaded (q : Ports) (hq : q.rst = false ∧ q.cmd = 0b00#2) (n : Nat) :
    ∀ s : State, FrameLoaded s → s.fault = none → s.moves = List.replicate n (.drive q) →
      ∃ t, runSteps n s = .next t ∧ t.fault = none := by
  induction n with
  | zero => exact fun s _ hf _ => ⟨s, rfl, hf⟩
  | succ n ih =>
    intro s hL hf hm
    obtain ⟨u, hu, huf, hfr, hum⟩ := nop_of_loaded (s := s.takeMove (List.replicate n (.drive q))) hL hf
    have hs : step s = .next u := by
      rw [step_of_move (m := .drive q) (rest := List.replicate n (.drive q)) hm, ← hu]
      simp [perform, blockStep, hq.1, decodePorts, hq.2]
    obtain ⟨t, ht, htf⟩ := ih u (fun i c hi hc => by
      have := hL i c hi hc
      simpa [State.readByte, State.mem, hfr] using this) huf hum
    exact ⟨t, by simpa [runSteps, hs] using ht, htf⟩

theorem witness_DecodeOfEncodeIsTheCommand :
    Instr.wellFormed (.convertPixel 0xFF#8 0x00#8 0x80#8 0x7F#8) = true ∧ Instr.wellFormed .nop = true := by decide

theorem witness_DecodeReadsCommandAndChannels :
    (0x0FFFFFFFF#34).toNat / 2 ^ 32 = 0 ∧ (0x1FFFFFFFF#34).toNat / 2 ^ 32 = 1 ∧
    (0x200000000#34).toNat / 2 ^ 32 = 2 ∧ (0x3FFFFFFFF#34).toNat / 2 ^ 32 = 3 ∧
    (ports 0b11#2 0 0 0 0).rst = false ∧ (ports 0b11#2 0 0 0 0).cmd = 0b11#2 ∧ State.reset.fault = none ∧
    resetPorts.rst = true := by decide

theorem witness_CommandIsExactlyTheCommandBits :
    (ports 0b10#2 1 2 3 4).cmd = (ports 0b10#2 5 6 7 8).cmd ∧ (ports 0b10#2 1 2 3 4).cmd ≠ 0b01#2 ∧
    decodePorts (ports 0b10#2 1 2 3 4) = .ok .convertFrame := by decide

theorem witness_StepRunsTheDecodedCommand :
    (withMoves busy5 [.drive (ports 0b00#2 1 2 3 4)]).moves = .drive (ports 0b00#2 1 2 3 4) :: [] ∧
    (ports 0b00#2 1 2 3 4).rst = false ∧ decodePorts (ports 0b00#2 1 2 3 4) = .ok .nop ∧
    decodeTableWord 40 0x212345678 = some .convertFrame := by decide

/-- Each clause of the order: reset, a recorded fault, the reserved command, a busy command, and the three commands. -/
theorem witness_StepFollowsTheEvaluationOrder :
    resetPorts.rst = true ∧ faulted.fault = some ⟨.illegalCmd, .cmd 0b11#2⟩ ∧
    (ports 0b11#2 0 0 0 0).cmd = 0b11#2 ∧ busy5.fault = none ∧ busy5.busy = true ∧
    (ports 0b01#2 0 0 0 0).cmd ≠ 0b11#2 ∧ (ports 0b01#2 0 0 0 0).cmd ≠ 0b00#2 ∧
    (ports 0b00#2 0 0 0 0).cmd = 0b00#2 ∧ State.reset.fault = none ∧ State.reset.busy = false ∧
    (ports 0b01#2 0 0 0 0).cmd = 0b01#2 ∧ (ports 0b10#2 0 0 0 0).cmd = 0b10#2 ∧
    (withMoves busy5 [.drive (ports 0b01#2 0 0 0 0)]).moves = .drive (ports 0b01#2 0 0 0 0) :: [] := by decide

theorem witness_NoMoveLeavesTheState : State.reset.moves = [] ∧ busy5.moves = [] := by decide

theorem witness_ResetStepWritesTheResetValues :
    (withMoves busy5 [.drive resetPorts]).moves = .drive resetPorts :: [] ∧ resetPorts.rst = true ∧
    busy5.busy = true ∧ faulted.busy = false ∧ faulted.frame = [] ∧ faulted.packed = [] ∧ faulted.preview = [] := by
  decide

theorem witness_ResetDuringAFrameDiscardsTheOutputs :
    resetPorts.rst = true ∧ busy5.busy = true ∧ Space.packed ≠ .frame ∧ 40959 < spaceSize .packed ∧
    Space.preview ≠ .frame ∧ 81919 < spaceSize .preview := by decide

theorem witness_ConvertPixelWritesTheResultRegisters :
    State.reset.fault = none ∧ State.reset.busy = false ∧ busy5.fault = none ∧ busy5.busy = true := by decide

/-- The three ways a command answers: its effect, BUSY_CMD, and no step in a faulted state. -/
theorem witness_ConvertPixelFrame :
    (∃ t, exec (.convertPixel 1 2 3 4) State.reset = .next t) ∧
    (∃ t, exec (.convertPixel 1 2 3 4) busy5 = .next t ∧ busy5.busy = true) ∧
    (∃ t, exec (.convertPixel 1 2 3 4) faulted = .next t ∧ faulted.fault ≠ none) :=
  ⟨⟨_, rfl⟩, ⟨_, rfl, rfl⟩, ⟨_, rfl, by decide⟩⟩

theorem witness_ResultsAreReadableInTheNextGap : State.reset.fault = none ∧ State.reset.busy = false := by decide

theorem witness_NoPixelValueFaultsAndAlphaIsIgnored :
    ∃ t t', exec (.convertPixel 0 0 0 0) busy5 = .next t ∧ exec (.convertPixel 255 255 255 255) busy5 = .next t' :=
  ⟨_, _, rfl, rfl⟩

theorem witness_NopIdlesOrPerformsTheFrameStep :
    State.reset.busy = false ∧ busy5.fault = none ∧ busy5.busy = true := by decide

/-- A pixel in the middle, the last pixel, and a pixel without R, without G and without B. -/
theorem witness_FrameStepConvertsPixelIdx :
    (busy5.fault = none ∧ busy5.busy = true ∧ busy5.readByte .frame (4 * busy5.idx.val) = some 0xFF#8 ∧
      busy5.readByte .frame (4 * busy5.idx.val + 1) = some 0x80#8 ∧
      busy5.readByte .frame (4 * busy5.idx.val + 2) = some 0x3C#8 ∧ busy5.idx.val ≠ Config.pixels - 1) ∧
    (busyLast.idx.val = Config.pixels - 1 ∧ busyLast.readByte .frame (4 * busyLast.idx.val) = some 0x9F#8 ∧
      busyLast.readByte .frame (4 * busyLast.idx.val + 1) = some 0xFE#8 ∧
      busyLast.readByte .frame (4 * busyLast.idx.val + 2) = some 0x1E#8) ∧
    (busyUnwritten.readByte .frame (4 * busyUnwritten.idx.val + 0) = none) ∧
    ({ busy5 with frame := [(20, 1#8), (21, 2#8)] } : State).readByte .frame (4 * busy5.idx.val + 2) = none ∧
    ({ busy5 with frame := [(20, 1#8), (22, 2#8)] } : State).readByte .frame (4 * busy5.idx.val + 1) = none := by
  decide

theorem witness_NopFrame :
    (∃ t, exec .nop busy5 = .next t ∧ busy5.idx.val ≠ Config.pixels - 1 ∧ 12 ≠ packedAddr busy5.idx.val 0 ∧
      12 ≠ packedAddr busy5.idx.val 1 ∧ ∀ c, c < 4 → 24 ≠ channelAddr busy5.idx.val c) ∧
    (∃ t, exec .nop State.reset = .next t ∧ State.reset.busy = false) ∧
    (∃ t, exec .nop busyUnwritten = .next t ∧ t.fault ≠ none) :=
  ⟨⟨_, rfl, by decide, by decide, by decide, by decide⟩, ⟨_, rfl, rfl⟩, ⟨_, rfl, by decide⟩⟩

theorem busy5_holds : FrameHolds busy5 busy5.idx.val 0xFF#8 0x80#8 0x3C#8 := by
  unfold FrameHolds; decide

theorem busyLast_holds : FrameHolds busyLast busyLast.idx.val 0x9F#8 0xFE#8 0x1E#8 := by
  unfold FrameHolds; decide

theorem witness_PackedIsBigEndian :
    busy5.fault = none ∧ busy5.busy = true ∧ FrameHolds busy5 busy5.idx.val 0xFF#8 0x80#8 0x3C#8 ∧
    0xFC07#16 = (0xFF#8).extractLsb' 3 5 ++ (0x80#8).extractLsb' 2 6 ++ (0x3C#8).extractLsb' 3 5 :=
  ⟨rfl, rfl, busy5_holds, by decide⟩

/-- A frame that ends by its last pixel, and one that ends by a reset. -/
theorem witness_OnlyTheLastPixelOrResetEndsAFrame :
    (busyLast.fault = none ∧ busyLast.busy = true ∧ busyLast.idx.val = Config.pixels - 1 ∧
      FrameHolds busyLast busyLast.idx.val 0x9F#8 0xFE#8 0x1E#8) ∧
    (∃ t, step (withMoves busyLast [asmNop]) = .next t ∧ t.busy = false) ∧
    (∃ t, step (withMoves busy5 [asmReset]) = .next t ∧ t.busy = false) :=
  ⟨⟨rfl, rfl, by decide, busyLast_holds⟩, ⟨_, rfl, by decide⟩, ⟨_, rfl, by decide⟩⟩

theorem witness_ConvertFrameStartsAFrame :
    State.reset.fault = none ∧ State.reset.busy = false ∧ busy5.fault = none ∧ busy5.busy = true := ⟨rfl, rfl, rfl, rfl⟩

theorem witness_ConvertFrameFrame :
    (∃ t, exec .convertFrame State.reset = .next t) ∧
    (∃ t, exec .convertFrame busy5 = .next t ∧ t.fault ≠ none) := ⟨⟨_, rfl⟩, ⟨_, rfl, by decide⟩⟩

/-- A fault of each cause, from an unfaulted state. -/
theorem witness_faults_of_each_cause :
    (∃ t, step (withMoves State.reset [.drive (ports 0b11#2 0 0 0 0)]) = .next t ∧
      t.fault = some ⟨.illegalCmd, .cmd 0b11#2⟩) ∧
    (∃ t, step (withMoves busy5 [asmFrame]) = .next t ∧ t.fault = some ⟨.busyCmd, .cmd 0b10#2⟩) ∧
    (∃ t, step (withMoves busyUnwritten [asmNop]) = .next t ∧
      t.fault = some ⟨.unwrittenRead, .byte .frame 4⟩) ∧
    (∃ t, step (withMoves busy5 [.write .preview 81919 0#8]) = .next t ∧
      t.fault = some ⟨.hostHazard, .access .preview 81919 .write⟩) ∧
    (∃ t, step (withMoves State.reset [.read .frame 81920]) = .next t ∧
      t.fault = some ⟨.hostRange, .byte .frame 81920⟩) ∧
    State.reset.fault = none ∧ busy5.fault = none ∧ busyUnwritten.fault = none :=
  ⟨⟨_, rfl, by decide⟩, ⟨_, rfl, by decide⟩, ⟨_, rfl, by decide⟩, ⟨_, rfl, by decide⟩, ⟨_, rfl, by decide⟩,
    rfl, rfl, rfl⟩

theorem witness_FaultEntryChangesNothingElse :
    ∃ t, step (withMoves busy5 [asmFrame]) = .next t ∧ (withMoves busy5 [asmFrame]).fault = none ∧
      t.fault = some ⟨.busyCmd, .cmd 0b10#2⟩ := ⟨_, rfl, rfl, by decide⟩

theorem witness_EveryFaultHasItsCause :
    ∃ t, step (withMoves State.reset [.readReg .resWord]) = .next t ∧ State.reset.fault = none ∧
      t.fault = some ⟨.unwrittenRead, .register .resWord⟩ := ⟨_, rfl, rfl, by decide⟩

theorem witness_OnlyResetClearsAFault :
    (∃ t, step (withMoves faulted [asmNop]) = .next t) ∧ faulted.fault ≠ none ∧
    faulted.fault = some ⟨.illegalCmd, .cmd 0b11#2⟩ ∧
    (ports 0b00#2 0 0 0 0).rst = false ∧ resetPorts.rst = true :=
  ⟨⟨_, rfl⟩, by decide, rfl, rfl, rfl⟩

/-- The clauses of R118 at the edges of the spaces. -/
theorem witness_HostAccessChecksInOrder :
    State.reset.fault = none ∧ spaceSize .packed ≤ 40960 ∧ 40959 < spaceSize .packed ∧ 81919 < spaceSize .frame ∧
    busy5.busy = true ∧ Space.preview ≠ .frame ∧ State.reset.busy = false ∧
    State.reset.readByte .packed 40959 = none ∧ busyLast.readByte .frame 81919 = some 0xFF#8 := by decide

theorem witness_HostReadsWhatItWrote :
    State.reset.busy = false ∧ 81919 < spaceSize .preview ∧ faulted.fault ≠ none ∧ spaceSize .packed ≤ 40960 ∧
    ({ busy5 with fault := faulted.fault } : State).busy = true ∧ faulted.readByte .frame 0 = none := by decide

theorem witness_HostReadsRegisters :
    (State.reset.setResults 1 2 3).resB0 = some (packB0 1 2) ∧ (State.reset.setResults 1 2 3).resB1 = some (packB1 2 3) ∧
    State.reset.fault = none ∧ State.reset.resB0 = none ∧ State.reset.resQA = none := by decide

theorem witness_HostRegisterWritesAreRefused : Reg.idx = .idx ∨ Reg.idx = .fault := by decide

theorem witness_TeardownWhileBusyIsAHazard :
    busy5.busy = true ∧ busy5.fault = none ∧ State.reset.busy = false := by decide

theorem witness_HostReadsHaveNoSideEffect :
    (∃ t, perform (.read .frame 20) busy5 = .next t) ∧ (∃ t, perform (.readReg .busy) busy5 = .next t) :=
  ⟨⟨_, rfl⟩, ⟨_, rfl⟩⟩

theorem witness_BusyChangesOnlyAtFrameBoundaries :
    (∃ t, step (withMoves State.reset [asmFrame]) = .next t ∧ t.busy ≠ State.reset.busy) ∧
    (∃ t, step (withMoves busy5 [asmReset]) = .next t ∧ t.busy ≠ busy5.busy) ∧
    (∃ t, step (withMoves busyLast [asmNop]) = .next t ∧ t.busy ≠ busyLast.busy) :=
  ⟨⟨_, rfl, by decide⟩, ⟨_, rfl, by decide⟩, ⟨_, rfl, by decide⟩⟩

theorem witness_DoneChangesOnlyAtFrameBoundaries :
    (∃ t, step (withMoves busyLast [asmNop]) = .next t ∧ t.done ≠ busyLast.done) ∧
    (∃ t, step (withMoves { State.reset with done := true } [asmFrame]) = .next t ∧ t.done ≠ true) ∧
    (∃ t, step (withMoves { State.reset with done := true } [asmReset]) = .next t ∧ t.done ≠ true) ∧
    ¬ (busyLast.busy = true ∧ busyLast.done = true) :=
  ⟨⟨_, rfl, by decide⟩, ⟨_, rfl, by decide⟩, ⟨_, rfl, by decide⟩, by decide⟩

theorem witness_IdxChangesOnlyAsTheFrameProceeds :
    (∃ t, step (withMoves busy5 [asmNop]) = .next t ∧ t.idx ≠ busy5.idx) ∧
    (∃ t, step (withMoves busy5 [asmReset]) = .next t ∧ t.idx ≠ busy5.idx) ∧
    (∃ t, step (withMoves { busy5 with busy := false } [asmFrame]) = .next t ∧ t.idx ≠ busy5.idx) :=
  ⟨⟨_, rfl, by decide⟩, ⟨_, rfl, by decide⟩, ⟨_, rfl, by decide⟩⟩

theorem witness_ResultRegistersChangeOnlyByConvertPixel :
    (∃ t, step (withMoves State.reset [asmPixel 1 2 3]) = .next t ∧ ¬ t.resB0 = State.reset.resB0) ∧
    (∃ t, step (withMoves (State.reset.setResults 1 2 3) [asmReset]) = .next t ∧
      ¬ t.resB0 = (State.reset.setResults 1 2 3).resB0) :=
  ⟨⟨_, rfl, by decide⟩, ⟨_, rfl, by decide⟩⟩

theorem witness_FrameBytesChangeOnlyByIdleHostWrites :
    ∃ t, step (withMoves State.reset [.write .frame 81919 1#8]) = .next t ∧
      t.readByte .frame 81919 ≠ State.reset.readByte .frame 81919 := ⟨_, rfl, by decide⟩

theorem witness_OutputBytesChangeOnlyByTheirCauses :
    (∃ t, step (withMoves busy5 [asmNop]) = .next t ∧ t.readByte .packed 10 ≠ busy5.readByte .packed 10) ∧
    (∃ t, step (withMoves { busy5 with packed := [(0, 1#8)] } [asmReset]) = .next t ∧
      t.readByte .packed 0 ≠ some 1#8) ∧
    (∃ t, step (withMoves State.reset [.write .preview 0 1#8]) = .next t ∧
      t.readByte .preview 0 ≠ State.reset.readByte .preview 0) ∧ Space.packed ≠ .frame ∧ Space.preview ≠ .frame :=
  ⟨⟨_, rfl, by decide⟩, ⟨_, rfl, by decide⟩, ⟨_, rfl, by decide⟩, by decide, by decide⟩

theorem witness_StepKeepsTheInvariant :
    ∃ s : State, Inv s ∧ FrameLoaded s ∧ ∃ t, step s = .next t := by
  obtain ⟨f, h1, h2, h3⟩ := zeros_exist Config.frameBytes
  exact ⟨_, loadedWith_inv h1 h2, loadedWith_frameLoaded h3, _, rfl⟩

/-- A frame at its last pixel with every pixel converted, and the step that ends it. -/
theorem witness_StepKeepsFrameProgress :
    ∃ s t : State, FrameProgress s ∧ s.busy = true ∧ s.idx.val = 20479 ∧ step s = .next t := by
  obtain ⟨f, -, -, hf⟩ := zeros_exist Config.frameBytes
  obtain ⟨p, -, -, hp⟩ := zeros_exist Config.packedBytes
  obtain ⟨v, -, -, hv⟩ := zeros_exist Config.previewBytes
  obtain ⟨t, ht, -⟩ := convertedWith_ends (p := p) (v := v) hf
  exact ⟨_, t, convertedWith_progress hf hp hv [asmNop], rfl, rfl, ht⟩

theorem witness_FrameProgressHoldsAtTheStart :
    State.reset.busy = false ∧ ∃ t, exec .convertFrame State.reset = .next t := ⟨rfl, ⟨_, rfl⟩⟩

theorem witness_TheEndOfAFrameFindsEveryPixelConverted :
    ∃ s t : State, FrameProgress s ∧ s.busy = true ∧ step s = .next t ∧ t.busy = false ∧ t.done = true := by
  obtain ⟨f, -, -, hf⟩ := zeros_exist Config.frameBytes
  obtain ⟨p, -, -, hp⟩ := zeros_exist Config.packedBytes
  obtain ⟨v, -, -, hv⟩ := zeros_exist Config.previewBytes
  obtain ⟨t, ht, hb, hd⟩ := convertedWith_ends (p := p) (v := v) hf
  exact ⟨_, t, convertedWith_progress hf hp hv [asmNop], rfl, ht, hb, hd⟩

/-- A loaded state whose host issues CONVERT_FRAME, then `n + 1` NOP steps. -/
def frameRun (f : Memory) (n : Nat) : State :=
  withMoves (loadedWith f) (.drive (ports 0b10#2 0 0 0 0) ::
    (List.replicate n (.drive (ports 0b00#2 0 0 0 0)) ++ [.drive (ports 0b00#2 0 0 0 0)]))

theorem frameRun_unfaulted {f : Memory} (hf : ZeroBelow f Config.frameBytes) (n : Nat) :
    ∃ t, runSteps (n + 2) (frameRun f n) = .next t ∧ t.fault = none := by
  obtain ⟨u, hs, huL, huf, hum⟩ : ∃ u, step (frameRun f n) = .next u ∧ FrameLoaded u ∧ u.fault = none ∧
      u.moves = List.replicate n (.drive (ports 0b00#2 0 0 0 0)) ++ [.drive (ports 0b00#2 0 0 0 0)] :=
    ⟨_, rfl, loadedWith_frameLoaded hf, rfl, rfl⟩
  obtain ⟨t, ht, htf⟩ := nops_of_loaded (ports 0b00#2 0 0 0 0) ⟨rfl, rfl⟩ (n + 1) u huL huf
    (hum.trans List.replicate_succ'.symm)
  exact ⟨t, by rw [runSteps, hs]; exact ht, htf⟩

theorem letsRun_replicate (n : Nat) :
    LetsRun (List.replicate n (.drive (ports 0b00#2 0 0 0 0)) ++ [.drive (ports 0b00#2 0 0 0 0)]) := by
  intro q hq
  rw [← List.replicate_succ'] at hq
  obtain rfl := HostMove.drive.inj (List.eq_of_mem_replicate hq)
  exact ⟨rfl, rfl⟩

theorem blockSteps_replicate (n : Nat) :
    blockSteps (List.replicate n (.drive (ports 0b00#2 0 0 0 0)) ++ [.drive (ports 0b00#2 0 0 0 0)]) = n + 1 := by
  rw [← List.replicate_succ', blockSteps, List.countP_replicate]; rfl

/-- Zero NOP steps with a host access in between (BUSY = 1 after them), and a whole frame. -/
theorem witness_AFrameTakesPixelsSteps :
    (∃ t, runSteps 2 (withMoves State.reset (.drive (ports 0b10#2 0 0 0 0) :: ([.readReg .busy] ++ []))) = .next t ∧
      t.fault = none ∧ blockSteps [.readReg .busy] < Config.pixels) ∧
    LetsRun [.readReg .busy] ∧
    (∃ f t, runSteps (20479 + 2) (frameRun f 20479) = .next t ∧ t.fault = none ∧ (frameRun f 20479).fault = none ∧
      (frameRun f 20479).busy = false ∧
      blockSteps (List.replicate 20479 (.drive (ports 0b00#2 0 0 0 0)) ++ [.drive (ports 0b00#2 0 0 0 0)]) =
        Config.pixels) ∧
    LetsRun (List.replicate 20479 (.drive (ports 0b00#2 0 0 0 0)) ++ [.drive (ports 0b00#2 0 0 0 0)]) := by
  refine ⟨⟨_, rfl, rfl, by decide⟩, by simp [LetsRun], ?_, letsRun_replicate _⟩
  obtain ⟨f, -, -, hf⟩ := zeros_exist Config.frameBytes
  obtain ⟨t, ht, htf⟩ := frameRun_unfaulted hf 20479
  exact ⟨f, t, ht, htf, rfl, rfl, (blockSteps_replicate _).trans Config.pixels_eq.symm⟩

theorem witness_ACompletedFrameIsTheConversionOfFrame :
    ∃ (s t : State) (p q : Ports) (ms rest : List HostMove),
      s.fault = none ∧ s.busy = false ∧ FrameLoaded s ∧ p.rst = false ∧ p.cmd = 0b10#2 ∧ LetsRun (ms ++ [.drive q]) ∧
      blockSteps (ms ++ [.drive q]) = Config.pixels ∧ s.moves = .drive p :: (ms ++ .drive q :: rest) ∧
      runSteps (ms.length + 2) s = .next t ∧ t.fault = none ∧ FrameHolds s 20479 0 0 0 := by
  obtain ⟨f, -, -, hf⟩ := zeros_exist Config.frameBytes
  obtain ⟨t, ht, htf⟩ := frameRun_unfaulted hf 20479
  refine ⟨frameRun f 20479, t, ports 0b10#2 0 0 0 0, ports 0b00#2 0 0 0 0,
    List.replicate 20479 (.drive (ports 0b00#2 0 0 0 0)), [], rfl, rfl, loadedWith_frameLoaded hf, rfl, rfl,
    letsRun_replicate _, (blockSteps_replicate _).trans Config.pixels_eq.symm, rfl, ?_, htf,
    loadedWith_holds hf (by decide)⟩
  rw [List.length_replicate]; exact ht

theorem witness_ALoadedFrameCompletes :
    ∃ (s : State) (p : Ports) (ps : List Ports) (rest : List HostMove),
      Inv s ∧ NoFault s ∧ Idle s ∧ FrameLoaded s ∧ p.rst = false ∧ p.cmd = 0b10#2 ∧ LetsRun (ps.map .drive) ∧
      s.moves = .drive p :: (ps.map .drive ++ rest) ∧ ps.length = Config.pixels := by
  obtain ⟨f, h1, h2, hf⟩ := zeros_exist Config.frameBytes
  obtain ⟨a, b, c, d, e, g, h, i, j⟩ := loadedWith_inv h1 h2
  refine ⟨withMoves (loadedWith f) (.drive (ports 0b10#2 0 0 0 0) ::
      ((List.replicate Config.pixels (ports 0b00#2 0 0 0 0)).map .drive ++ [])), ports 0b10#2 0 0 0 0,
    List.replicate Config.pixels (ports 0b00#2 0 0 0 0), [], ⟨a, b, c, d, e, g, h, i, j⟩, rfl, rfl,
    loadedWith_frameLoaded hf, rfl, rfl, ?_, rfl, List.length_replicate⟩
  intro q hq
  obtain ⟨q', hq', he⟩ := List.mem_map.1 hq
  obtain rfl := HostMove.drive.inj he
  rw [List.eq_of_mem_replicate hq']; exact ⟨rfl, rfl⟩

/-- Another alpha byte in FRAME. -/
theorem witness_FrameAlphaIsNeverSeen :
    (∀ x, x % 4 ≠ 3 →
      Memory.read [(20, 0xFF#8), (21, 0x80#8), (22, 0x3C#8), (23, 0x00#8)] x = busy5.frame.read x) ∧
    ∃ t, exec .nop busy5 = .next t := by
  refine ⟨fun x hx => ?_, ⟨_, rfl⟩⟩
  have : x ≠ 23 := by rintro rfl; exact hx rfl
  simp [busy5, Memory.read, this.symm]

theorem witness_IdleIdxIsNeverSeen :
    State.reset.busy = false ∧ ∃ t, perform asmFrame State.reset = .next t ∧ t.busy = true := ⟨rfl, ⟨_, rfl, rfl⟩⟩

theorem witness_PixelIndexIsRowMajor :
    159 < Config.width ∧ 127 < Config.height ∧ pixelIndex 159 127 = 20479 ∧ 20479 < Config.pixels := by decide

theorem witness_PixelsTileTheSpaces :
    channelAddr 5 3 = channelAddr 5 3 ∧ 81919 < spaceSize .frame ∧ 81919 < spaceSize .preview ∧
    40959 < spaceSize .packed := by decide

theorem witness_AcceptedPlacementsNameOneByte :
    Placement.wellFormed ⟨0, 81920, 122880⟩ = true ∧ 81919 < spaceSize .frame ∧ 0 < spaceSize .packed ∧
    placeAddr ⟨0, 81919, 200000⟩ .frame 81919 = placeAddr ⟨0, 81919, 200000⟩ .packed 0 := by decide

/-- P3, P6: the loop stops at the round that ends the frame, two rounds before the end too, and one round after it
(`DONE` is 1 already); over an unwritten pixel it does not end. -/
theorem test_wait :
    asmWaitWithin 5 busyLast = some [asmNop, .readReg .done] ∧
    asmWaitWithin 5 { busyLast with idx := ⟨20478, by decide⟩, frame :=
      (81912, 1#8) :: (81913, 2#8) :: (81914, 3#8) :: busyLast.frame } =
        some [asmNop, .readReg .done, asmNop, .readReg .done] ∧
    asmWaitWithin 5 { State.reset with done := true } = some [asmNop, .readReg .done] ∧
    asmWaitWithin 5 busyUnwritten = none := by decide

/-- An idle block that has ended no frame is waited for without end. -/
theorem wait_of_idle (n : Nat) : ∀ s : State, s.busy = false → s.done = false → asmWaitWithin n s = none := by
  induction n with
  | zero => exact fun s _ _ => rfl
  | succ n ih =>
    intro s hb hd
    have hi : exec .nop (s.takeMove s.moves) = .next (s.takeMove s.moves) := by
      simp only [exec, execNop, unlessFaulted]
      split
      · rfl
      · simp [hb]
    rw [asmWaitWithin_again n hi hd,
      ih (((s.takeMove s.moves).takeMove (s.takeMove s.moves).moves).giveBack (.bit false)) hb hd]; rfl

/-- A `WAIT` that ends, one that does not, a loaded frame in flight at its last pixel, and a loaded idle state. -/
theorem witness_PseudoInstructionsExpand :
    asmWait busyLast = some (asmPoll 1) ∧ asmWait State.reset = none ∧
    (∃ s : State, FrameLoaded s ∧ s.fault = none ∧ s.busy = true ∧ s.done = false ∧ s.idx.val = 20479) ∧
    (∃ s t : State, FrameLoaded s ∧ s.fault = none ∧ s.busy = false ∧ exec .convertFrame s = .next t) ∧
    20479 < Config.pixels ∧ 81919 < spaceSize .frame := by
  refine ⟨?_, wait_of_idle _ _ rfl rfl, ?_, ?_, by decide, by decide⟩
  · exact asmWaitWithin_done 20479 (t := (busyLast.storePixel 20479 0x9F 0xFE 0x1E).endPixel)
      ((frameStep_of_values busyLast_holds : frameStep busyLast = _)) (State.endPixel_last (by
        rw [State.storePixel_idx]; decide)).2.1
  · obtain ⟨f, -, -, hf⟩ := zeros_exist Config.frameBytes
    exact ⟨convertedWith f [] [], fun i c hi hc => loadedWith_frameLoaded hf i c hi hc, rfl, rfl, rfl, rfl⟩
  · obtain ⟨f, -, -, hf⟩ := zeros_exist Config.frameBytes
    exact ⟨loadedWith f, _, loadedWith_frameLoaded hf, rfl, rfl, rfl⟩

end Sys2Proof.Tests
end

section
/-! PROOFS of the statements about the memory spaces (20_memory.md): PACKED is big-endian (R45), and FRAME changes only
by host writes while `BUSY = 0` (R58). -/

namespace Sys2Proof.Machine

/-! ## The RGB565 word and its two bytes -/

/-- The high byte of the RGB565 word is byte0 (R64). -/
theorem packWord_highByte (r g b : Byte) : (packWord r g b).extractLsb' 8 8 = packB0 r g :=
  BitVec.extractLsb'_append_eq_left

/-- The low byte of the RGB565 word is byte1 (R64). -/
theorem packWord_lowByte (r g b : Byte) : (packWord r g b).extractLsb' 0 8 = packB1 g b :=
  BitVec.extractLsb'_append_eq_right

/-- The fields of the RGB565 word: `R[7:3] : G[7:2] : B[7:3]` (R76). -/
theorem packWord_eq_fields (r g b : Byte) :
    packWord r g b = r.extractLsb' 3 5 ++ g.extractLsb' 2 6 ++ b.extractLsb' 3 5 := by
  have hr := r.isLt
  have hg := g.isLt
  have hb := b.isLt
  apply BitVec.eq_of_toNat_eq
  rw [packWord_toNat, packB0_toNat, packB1_toNat]
  simp only [toNat_append_eq, BitVec.extractLsb'_toNat, Nat.shiftRight_eq_div_pow]
  omega

/-! ## The frame step -/

/-- `NOP` converts pixel `IDX` in an unfaulted busy state where FRAME holds its three channels (R84, R91). -/
theorem execNop_of_values {s : State} {r g b : Byte} (hf : s.fault = none) (hb : s.busy = true)
    (h : FrameHolds s s.idx.val r g b) :
    exec .nop s = .next (s.storePixel s.idx.val r g b).endPixel := by
  rw [← frameStep_of_values h, exec, execNop, unlessFaulted_of_none hf, if_pos hb]

/-- Settles O27: the frame step stores byte0 and byte1, and these are the high and the low byte of the word. -/
theorem packedIsBigEndian : Obligations.PackedIsBigEndian := by
  intro s r g b w hf hb hp hw
  obtain ⟨h0, h1, -⟩ := s.storePixel_outputs s.idx.val r g b
  rw [← packWord_eq_fields] at hw
  refine ⟨_, execNop_of_values hf hb hp, ?_, ?_⟩
  · rw [State.endPixel_readByte, hw, packWord_highByte]
    exact h0
  · rw [State.endPixel_readByte, hw, packWord_lowByte]
    exact h1

/-! ## What changes FRAME -/

/-- A host move leaves a byte of FRAME as it is, or is a write to its address while `BUSY = 0` (R52, R58). -/
theorem Effect.readFrame {m : HostMove} {s t : State} (h : Effect m s t) (a : Nat) :
    t.readByte .frame a = s.readByte .frame a ∨
    (s.busy = false ∧ ∃ v, m = .write .frame a v ∧ t.readByte .frame a = some v) := by
  cases h with
  | stays => exact .inl rfl
  | raises => exact .inl (State.raise_readByte ..)
  | resets => exact .inl rfl
  | converts => exact .inl (State.setResults_readByte ..)
  | begins => exact .inl (State.beginFrame_readByte ..)
  | converted => exact .inl (by rw [State.endPixel_readByte, State.storePixel_readFrame])
  | answers => exact .inl (State.giveBack_readByte ..)
  | writes sp b v hm hb =>
    by_cases hit : sp = .frame ∧ b = a
    · obtain ⟨rfl, rfl⟩ := hit
      exact .inr ⟨hb, v, hm, by simp [State.readByte_writeByte]⟩
    · exact .inl (by rw [State.readByte_writeByte, if_neg hit])

/-- Settles O44: of the eight effects only an idle host write reaches FRAME. -/
theorem frameBytesChangeOnlyByIdleHostWrites : Obligations.FrameBytesChangeOnlyByIdleHostWrites := by
  intro s t a hstep hne
  rcases step_effect hstep with ⟨-, rfl⟩ | ⟨m, rest, hm, heff⟩
  · exact absurd rfl hne
  · rcases heff.readFrame a with hsame | ⟨hidle, v, rfl, hv⟩
    · exact absurd (hsame.trans (State.takeMove_readByte ..)) hne
    · exact ⟨hidle, v, rest, hm, hv⟩

end Sys2Proof.Machine
end

section
/-! PROOFS of the statements about the encoding (30_encoding.md): the decoder by the fields of the issue word and the two
steps that take no command (R60), and the packed bytes by their bit fields (R62, R63, R74, R75). -/

namespace Sys2Proof

/-! ## The fields of the issue word (R60) -/

/-- A field of a bit vector is the number above its lowest bit, cut to the field's width. -/
theorem extractLsb'_eq_ofNat_div {n : Nat} (w : BitVec n) (start len : Nat) :
    w.extractLsb' start len = BitVec.ofNat len (w.toNat / 2 ^ start) := by
  rw [BitVec.extractLsb', Nat.shiftRight_eq_div_pow]

/-- The command field of an issue word whose number above bit 32 is known. -/
theorem ofIssueWord_cmd {w : IssueWord} {n : Nat} (h : w.toNat / 2 ^ 32 = n) :
    (Ports.ofIssueWord w).cmd = BitVec.ofNat 2 n := by
  rw [← h]
  exact extractLsb'_eq_ofNat_div w 32 2

/-! ## The decoder on each value of the command port (R60, R66) -/

theorem decodePorts_nop {p : Ports} (h : p.cmd = 0b00#2) : decodePorts p = .ok .nop := by
  simp [decodePorts, h]

theorem decodePorts_convertPixel {p : Ports} (h : p.cmd = 0b01#2) :
    decodePorts p = .ok (.convertPixel p.pixR p.pixG p.pixB p.pixA) := by
  simp [decodePorts, h]

theorem decodePorts_convertFrame {p : Ports} (h : p.cmd = 0b10#2) : decodePorts p = .ok .convertFrame := by
  simp [decodePorts, h]

theorem decodePorts_reserved {p : Ports} (h : p.cmd = 0b11#2) :
    decodePorts p = .error (.reservedCommand 0b11#2) := by
  simp [decodePorts, h]

/-- `CONVERT_PIXEL` in an issue word takes its channels from the bytes at bits 24, 16, 8 and 0. -/
theorem decode_convertPixel {w : IssueWord} (h : w.toNat / 2 ^ 32 = 1) :
    decode w = .ok (.convertPixel (BitVec.ofNat 8 (w.toNat / 2 ^ 24)) (BitVec.ofNat 8 (w.toNat / 2 ^ 16))
      (BitVec.ofNat 8 (w.toNat / 2 ^ 8)) (BitVec.ofNat 8 w.toNat)) := by
  rw [decode, decodePorts_convertPixel (ofIssueWord_cmd h)]
  simp only [Ports.ofIssueWord, extractLsb'_eq_ofNat_div, Nat.pow_zero, Nat.div_one]

end Sys2Proof

namespace Sys2Proof.Machine

/-! ## The steps that take no command (R66, R83, R120) -/

/-- With `rst = 1` the block takes the reset step, whatever `cmd` is. -/
theorem blockStep_reset {p : Ports} (h : p.rst = true) (s : State) : blockStep p s = .next s.resetStep := by
  rw [blockStep, if_pos h]

/-- The reserved command raises `ILLEGAL_CMD` in an unfaulted state. -/
theorem blockStep_reserved {p : Ports} {s : State} (hr : p.rst = false) (hc : p.cmd = 0b11#2) (hf : s.fault = none) :
    blockStep p s = .next (s.raise .illegalCmd (.cmd 0b11#2)) := by
  simp only [blockStep, hr, Bool.false_eq_true, if_false, decodePorts_reserved hc, unlessFaulted_of_none hf]

/-- Settles O2: the command field picks the row of R60's table, and the reset and the reserved command have a step of
their own. -/
theorem decodeReadsCommandAndChannels : Obligations.DecodeReadsCommandAndChannels := by
  refine ⟨fun w => ⟨fun h => ?_, decode_convertPixel, fun h => ?_, fun h => ?_⟩, fun p s hr hc hf => ?_,
    fun p s hr => blockStep_reset hr s⟩
  · exact decodePorts_nop (ofIssueWord_cmd h)
  · exact decodePorts_convertFrame (ofIssueWord_cmd h)
  · exact decodePorts_reserved (ofIssueWord_cmd h)
  · rw [perform, blockStep_reserved hr hc hf, State.raise_eq hf]

/-! ## The packed bytes by bit fields (R74, R75) -/

/-- byte0 is `R[7:3] : G[7:5]`. -/
theorem packB0_eq_fields (r g : Byte) : packB0 r g = r.extractLsb' 3 5 ++ g.extractLsb' 5 3 := by
  have hr := r.isLt
  have hg := g.isLt
  apply BitVec.eq_of_toNat_eq
  rw [packB0_toNat]
  simp only [toNat_append_eq, BitVec.extractLsb'_toNat, Nat.shiftRight_eq_div_pow]
  omega

/-- byte1 is `G[4:2] : B[7:3]`. -/
theorem packB1_eq_fields (g b : Byte) : packB1 g b = g.extractLsb' 2 3 ++ b.extractLsb' 3 5 := by
  have hb := b.isLt
  apply BitVec.eq_of_toNat_eq
  rw [packB1_toNat]
  simp only [toNat_append_eq, BitVec.extractLsb'_toNat, Nat.shiftRight_eq_div_pow]
  omega

/-- The mask keeps bits 4 to 2 of G. -/
theorem toNat_greenMask (g : Byte) : (g &&& 0x1C#8).toNat = g.toNat / 4 % 8 * 4 := by revert g; decide

/-- The left shift of the masked G loses no bit: the mask leaves the top three bits 0. -/
theorem toNat_greenShift (g : Byte) : ((g &&& 0x1C#8) <<< 3).toNat = (g &&& 0x1C#8).toNat * 8 := by
  rw [toNat_greenLow, toNat_greenMask]
  omega

/-- Settles O14: the formulas are the definitions of the packed bytes, and the fields and the shift follow from the
bytes as numbers. -/
theorem packedBytesCarryTheHighBits : Obligations.PackedBytesCarryTheHighBits := fun r g b =>
  ⟨rfl, packB0_eq_fields r g, rfl, packB1_eq_fields g b, toNat_greenShift g⟩

end Sys2Proof.Machine
end

section
/-! PROOFS of the statements about the pixel functions and the two commands on them (40_pixel.md): quantizing and packing
by bit fields and as numbers (R70 to R76), their laws (R79, R81, R82, R86), `NOP` (R84) and `CONVERT_PIXEL` (R85). -/

namespace Sys2Proof.Machine

/-! ## Quantizing by bit fields (R70 to R73) -/

/-- Masking with `F8` keeps bits 7 to 3 and clears the rest. -/
theorem keepHigh5_eq_field (v : Byte) : v &&& 0xF8#8 = v.extractLsb' 3 5 ++ 0#3 := by
  have hv := v.isLt
  apply BitVec.eq_of_toNat_eq
  rw [toNat_keepHigh5, toNat_append_eq, BitVec.extractLsb'_toNat, Nat.shiftRight_eq_div_pow, BitVec.toNat_zero]
  omega

/-- Masking with `FC` keeps bits 7 to 2 and clears the rest. -/
theorem keepHigh6_eq_field (v : Byte) : v &&& 0xFC#8 = v.extractLsb' 2 6 ++ 0#2 := by
  have hv := v.isLt
  apply BitVec.eq_of_toNat_eq
  rw [toNat_keepHigh6, toNat_append_eq, BitVec.extractLsb'_toNat, Nat.shiftRight_eq_div_pow, BitVec.toNat_zero]
  omega

/-- Settles O13: the masks are the definitions, and a mask is its field. -/
theorem quantizingTruncates : Obligations.QuantizingTruncates :=
  ⟨fun r => ⟨rfl, keepHigh5_eq_field r⟩, fun g => ⟨rfl, keepHigh6_eq_field g⟩, fun b => ⟨rfl, keepHigh5_eq_field b⟩, rfl⟩

/-! ## The packed word as a number (R76) -/

/-- The packed word is the sum of its fields, red above 11 bits and green above 5. -/
theorem packWord_toNat_eq_fields (r g b : Byte) :
    (packWord r g b).toNat = r.toNat / 8 * 2048 + g.toNat / 4 * 32 + b.toNat / 8 := by
  rw [packWord_toNat, packB0_toNat, packB1_toNat]
  omega

/-- Settles O15: the bytes are the definition, the fields and the number follow from the bytes as numbers. -/
theorem packedWordIsRgb565 : Obligations.PackedWordIsRgb565 := fun r g b =>
  ⟨rfl, packWord_eq_fields r g b, packWord_toNat_eq_fields r g b⟩

/-! ## The operands of each OR are disjoint (R79) -/

/-- OR and XOR agree on operands with no common bit. -/
theorem or_eq_xor_of_and_eq_zero {w : Nat} {x y : BitVec w} (h : x &&& y = 0#w) : x ||| y = x ^^^ y := by
  apply BitVec.eq_of_getElem_eq
  intro i hi
  have hbit : (x[i] && y[i]) = false := by rw [← BitVec.getElem_and, h, BitVec.getElem_zero]
  have hbool : ∀ a b : Bool, (a && b) = false → (a || b) = (a ^^ b) := by decide
  rw [BitVec.getElem_or, BitVec.getElem_xor]
  exact hbool _ _ hbit

/-- The OR of operands with no common bit is their sum as natural numbers. -/
theorem toNat_or_of_and_eq_zero {w : Nat} {x y : BitVec w} (h : x &&& y = 0#w) :
    (x ||| y).toNat = x.toNat + y.toNat := by
  rw [← BitVec.add_eq_or_of_and_eq_zero x y h, BitVec.toNat_add_of_and_eq_zero h]

/-- byte0: the mask `F8` has no bit that `G >> 5` can have. -/
theorem packB0_operands_disjoint (r g : Byte) : (r &&& 0xF8#8) &&& (g >>> 5) = 0#8 := by
  have hmask : 0xF8#8 &&& (g >>> 5) = 0#8 := by revert g; decide
  rw [BitVec.and_assoc, hmask, BitVec.and_zero]

/-- byte1: the shifted mask `E0` has no bit that `B >> 3` can have. -/
theorem packB1_operands_disjoint (g b : Byte) : ((g &&& 0x1C#8) <<< 3) &&& (b >>> 3) = 0#8 := by
  have hmask : (0x1C#8 <<< 3) &&& (b >>> 3) = 0#8 := by revert b; decide
  rw [BitVec.shiftLeft_and_distrib, BitVec.and_assoc, hmask, BitVec.and_zero]

/-- Settles O16: what holds of every OR of disjoint operands, at the operands of byte0 and of byte1. -/
theorem packingOperandsAreDisjoint : Obligations.PackingOperandsAreDisjoint := by
  intro r g b
  have h0 := packB0_operands_disjoint r g
  have h1 := packB1_operands_disjoint g b
  exact ⟨h0, or_eq_xor_of_and_eq_zero h0, toNat_or_of_and_eq_zero h0,
    h1, or_eq_xor_of_and_eq_zero h1, toNat_or_of_and_eq_zero h1⟩

/-! ## Unpacking (R81) -/

theorem toNat_greenHighPart (v : Byte) : ((v &&& 0x07#8) <<< 5).toNat = v.toNat % 8 * 2 ^ 5 := by revert v; decide

theorem toNat_greenLowPart (v : Byte) : ((v &&& 0xE0#8) >>> 3).toNat = v.toNat / 32 * 4 := by revert v; decide

theorem toNat_blueField (v : Byte) : ((v &&& 0x1F#8) <<< 3).toNat = v.toNat % 32 * 8 := by revert v; decide

/-- The red that `unpack` reads from byte0. -/
theorem unpack_red (r g : Byte) : packB0 r g &&& 0xF8#8 = quantR r := by
  have hg := g.isLt
  apply BitVec.eq_of_toNat_eq
  rw [toNat_keepHigh5, packB0_toNat, quantR_toNat]
  omega

/-- The green that `unpack` puts together from byte0 and byte1. -/
theorem unpack_green (r g b : Byte) :
    ((packB0 r g &&& 0x07#8) <<< 5) ||| ((packB1 g b &&& 0xE0#8) >>> 3) = quantG g := by
  have hg := g.isLt
  have hb := b.isLt
  apply BitVec.eq_of_toNat_eq
  rw [BitVec.toNat_or, toNat_greenHighPart, toNat_greenLowPart, packB0_toNat, packB1_toNat, quantG_toNat,
    or_eq_add_of_apart (k := 5) (by omega)]
  omega

/-- The blue that `unpack` reads from byte1. -/
theorem unpack_blue (g b : Byte) : (packB1 g b &&& 0x1F#8) <<< 3 = quantB b := by
  have hb := b.isLt
  apply BitVec.eq_of_toNat_eq
  rw [toNat_blueField, packB1_toNat, quantB_toNat]
  omega

/-- Settles O17: channel by channel. -/
theorem unpackingGivesTheQuantizedTriple : Obligations.UnpackingGivesTheQuantizedTriple := by
  intro r g b
  rw [unpack, unpack_red, unpack_green, unpack_blue]

/-! ## Packing reads only the bits quantizing keeps (R82, R86) -/

/-- The bits of G in byte0 are kept by quantizing. -/
theorem quantG_shiftRight (g : Byte) : quantG g >>> 5 = g >>> 5 := by
  apply BitVec.eq_of_toNat_eq
  rw [BitVec.toNat_ushiftRight, BitVec.toNat_ushiftRight, quantG_toNat, Nat.shiftRight_eq_div_pow,
    Nat.shiftRight_eq_div_pow]
  omega

/-- The bits of G in byte1 are kept by quantizing: the mask `FC` holds the mask `1C`. -/
theorem quantG_greenMask (g : Byte) : quantG g &&& 0x1C#8 = g &&& 0x1C#8 := by
  have hmask : 0xFC#8 &&& 0x1C#8 = 0x1C#8 := by decide
  rw [quantG, BitVec.and_assoc, hmask]

/-- The bits of B in byte1 are kept by quantizing. -/
theorem quantB_shiftRight (b : Byte) : quantB b >>> 3 = b >>> 3 := by
  apply BitVec.eq_of_toNat_eq
  rw [BitVec.toNat_ushiftRight, BitVec.toNat_ushiftRight, quantB_toNat, Nat.shiftRight_eq_div_pow,
    Nat.shiftRight_eq_div_pow]
  omega

/-- byte0 from the quantized red and green. -/
theorem packB0_eq_quantized (r g : Byte) : packB0 r g = (quantR r ||| (quantG g >>> 5)) := by
  rw [quantG_shiftRight, packB0, quantR]

/-- byte1 from the quantized green and blue. -/
theorem packB1_eq_quantized (g b : Byte) :
    packB1 g b = (((quantG g &&& 0x1C#8) <<< 3) ||| (quantB b >>> 3)) := by
  rw [quantG_greenMask, quantB_shiftRight, packB1]

/-- Settles O18: both bytes from the quantized channels. -/
theorem packedBytesComeFromTheQuantizedTriple : Obligations.PackedBytesComeFromTheQuantizedTriple := fun r g b =>
  ⟨packB0_eq_quantized r g, packB1_eq_quantized g b⟩

theorem quantR_idem (r : Byte) : quantR (quantR r) = quantR r := by
  simp only [quantR, BitVec.and_assoc, BitVec.and_self]

theorem quantG_idem (g : Byte) : quantG (quantG g) = quantG g := by
  simp only [quantG, BitVec.and_assoc, BitVec.and_self]

theorem quantB_idem (b : Byte) : quantB (quantB b) = quantB b := by
  simp only [quantB, BitVec.and_assoc, BitVec.and_self]

/-- Packing the quantized triple gives the same word: each byte is a function of the quantized triple, which quantizing
again leaves as it is. -/
theorem packWord_quantized (r g b : Byte) : packWord (quantR r) (quantG g) (quantB b) = packWord r g b := by
  simp only [packWord, packB0_eq_quantized, packB1_eq_quantized, quantR_idem, quantG_idem, quantB_idem]

/-- Settles O19: idempotence, the packing law, and the two words. -/
theorem quantizingIsIdempotent : Obligations.QuantizingIsIdempotent := fun r g b =>
  ⟨quantR_idem r, quantG_idem g, quantB_idem b, packWord_quantized r g b, by decide, by decide⟩

/-! ## CONVERT_PIXEL (R85) -/

/-- An idle, unfaulted block writes the result registers. -/
theorem exec_convertPixel_of_idle {s : State} (hf : s.fault = none) (hb : s.busy = false) (r g b a : Byte) :
    exec (.convertPixel r g b a) s = .next (s.setResults r g b) := by
  rw [exec, execConvertPixel, unlessFaulted_of_none hf, unlessBusy_of_idle hb]

/-- A busy, unfaulted block raises `BUSY_CMD`. -/
theorem exec_convertPixel_of_busy {s : State} (hf : s.fault = none) (hb : s.busy = true) (r g b a : Byte) :
    exec (.convertPixel r g b a) s = .next (s.raise .busyCmd (.cmd 0b01#2)) := by
  rw [exec, execConvertPixel, unlessFaulted_of_none hf, unlessBusy_of_busy hb]

/-- Settles O20: the idle case is `setResults`, written out; the busy case is a raise in an unfaulted state. -/
theorem convertPixelWritesTheResultRegisters : Obligations.ConvertPixelWritesTheResultRegisters := by
  refine fun r g b a s hf => ⟨fun hb => exec_convertPixel_of_idle hf hb r g b a, fun hb => ?_⟩
  rw [exec_convertPixel_of_busy hf hb, State.raise_eq hf]

/-! ## NOP (R84) -/

/-- `NOP` changes nothing while `BUSY = 0`, with a fault recorded or without. -/
theorem exec_nop_of_idle {s : State} (hb : s.busy = false) : exec .nop s = .next s := by
  rw [exec, execNop, hb, if_neg Bool.false_ne_true]
  cases hf : s.fault with
  | none => exact unlessFaulted_of_none hf _
  | some f => exact unlessFaulted_of_some hf _

/-- `NOP` performs the frame step while `BUSY = 1`. -/
theorem exec_nop_of_busy {s : State} (hf : s.fault = none) (hb : s.busy = true) : exec .nop s = frameStep s := by
  rw [exec, execNop, unlessFaulted_of_none hf, if_pos hb]

/-- Settles O24: the two values of `BUSY`. -/
theorem nopIdlesOrPerformsTheFrameStep : Obligations.NopIdlesOrPerformsTheFrameStep :=
  ⟨fun _ hb => exec_nop_of_idle hb, fun _ hf hb => exec_nop_of_busy hf hb⟩

end Sys2Proof.Machine
end

section
/-! PROOFS of the statements about the frame stage (41_frame.md): starting a frame (R90), the frame step (R91, R92), the
range of its addresses (R97), and a whole frame with host accesses between its steps (R93, R99). -/

namespace Sys2Proof.Machine

/-! ## CONVERT_FRAME (R90) -/

/-- An idle, unfaulted block starts a frame. -/
theorem exec_convertFrame_of_idle {s : State} (hf : s.fault = none) (hb : s.busy = false) :
    exec .convertFrame s = .next s.beginFrame := by
  rw [exec, execConvertFrame, unlessFaulted_of_none hf, unlessBusy_of_idle hb]

/-- A busy, unfaulted block raises `BUSY_CMD`. -/
theorem exec_convertFrame_of_busy {s : State} (hf : s.fault = none) (hb : s.busy = true) :
    exec .convertFrame s = .next (s.raise .busyCmd (.cmd 0b10#2)) := by
  rw [exec, execConvertFrame, unlessFaulted_of_none hf, unlessBusy_of_busy hb]

/-- Settles O29: the idle case is `beginFrame`, the busy case a raise in an unfaulted state. -/
theorem convertFrameStartsAFrame : Obligations.ConvertFrameStartsAFrame := by
  refine fun s hf => ⟨fun hb => ?_, fun hb => ?_⟩
  · exact ⟨_, exec_convertFrame_of_idle hf hb, rfl, rfl, rfl, rfl⟩
  · rw [exec_convertFrame_of_busy hf hb, State.raise_eq hf]

/-! ## The range of the block's accesses (R97) -/

/-- In a faulted state every command leaves the state as it is (R83). -/
theorem exec_of_faulted {s : State} {f : FaultRecord} (hf : s.fault = some f) (i : Instr) : exec i s = .next s := by
  cases i with
  | nop => exact unlessFaulted_of_some hf _
  | convertPixel => exact unlessFaulted_of_some hf _
  | convertFrame => exact unlessFaulted_of_some hf _

/-- Every command answers a next state in every state. -/
theorem exec_next (i : Instr) (s : State) : ∃ t, exec i s = .next t := by
  cases hf : s.fault with
  | some f => exact ⟨s, exec_of_faulted hf i⟩
  | none =>
    cases i with
    | nop => exact exec_nop_next s
    | convertPixel r g b a =>
      cases hb : s.busy with
      | false => exact ⟨_, exec_convertPixel_of_idle hf hb r g b a⟩
      | true => exact ⟨_, exec_convertPixel_of_busy hf hb r g b a⟩
    | convertFrame =>
      cases hb : s.busy with
      | false => exact ⟨_, exec_convertFrame_of_idle hf hb⟩
      | true => exact ⟨_, exec_convertFrame_of_busy hf hb⟩

/-- Settles O9: `IDX` is below `PIXELS`, so the address lemmas bound what is computed from it; and a command that answers
a next state has stopped at no access. -/
theorem blockAccessesStayInsideTheSpaces : Obligations.BlockAccessesStayInsideTheSpaces := by
  refine ⟨fun s => ?_, by decide, fun i s sp a h => ?_⟩
  · have hi := s.idx.isLt
    have hbits : Config.pixels < 2 ^ Config.idxBits := by decide
    exact ⟨Nat.le_sub_one_of_lt hi, Nat.lt_of_le_of_lt hi hbits,
      Nat.le_sub_one_of_lt (channelAddr_lt_frame hi (by decide)),
      Nat.le_sub_one_of_lt (channelAddr_lt_preview hi (by decide)),
      Nat.le_sub_one_of_lt (packedAddr_lt hi (by decide))⟩
  · obtain ⟨t, ht⟩ := exec_next i s
    rw [ht] at h
    cases h

/-! ## The frame step (R91, R92) -/

/-- After the frame step of any pixel but the last: `IDX` one higher, `BUSY` and `DONE` as before. -/
theorem State.storePixel_endPixel_more {s : State} {r g b : Byte} (h : s.idx.val + 1 < Config.pixels) :
    (s.storePixel s.idx.val r g b).endPixel.busy = s.busy ∧ (s.storePixel s.idx.val r g b).endPixel.done = s.done ∧
      (s.storePixel s.idx.val r g b).endPixel.idx.val = s.idx.val + 1 := by
  simpa using State.endPixel_more (s := s.storePixel s.idx.val r g b) (by simpa using h)

/-- After the frame step of the last pixel: `BUSY = 0`, `DONE = 1`, `IDX` as before. -/
theorem State.storePixel_endPixel_last {s : State} {r g b : Byte} (h : ¬ s.idx.val + 1 < Config.pixels) :
    (s.storePixel s.idx.val r g b).endPixel.busy = false ∧ (s.storePixel s.idx.val r g b).endPixel.done = true ∧
      (s.storePixel s.idx.val r g b).endPixel.idx = s.idx := by
  simpa using State.endPixel_last (s := s.storePixel s.idx.val r g b) (by simpa using h)

/-- The outputs of a pixel say nothing of the status. -/
theorem State.endPixel_outputs {s : State} {i : Nat} {r g b : Byte} :
    OutputsAre s.endPixel i r g b ↔ OutputsAre s i r g b := by
  simp only [OutputsAre, State.endPixel_readByte]

/-- Settles O25: with three values the frame step stores the pixel and the status moves on; otherwise the first channel
without a value is the one the frame step names. -/
theorem frameStepConvertsPixelIdx : Obligations.FrameStepConvertsPixelIdx := by
  intro s hf hb
  refine ⟨fun r g b hr hg hblue => ?_, fun c hc hnone hbefore => ?_⟩
  · obtain ⟨h0, h1, hR, hG, hB, hA⟩ := State.endPixel_outputs.2 (s.storePixel_outputs s.idx.val r g b)
    refine ⟨_, execNop_of_values hf hb ⟨hr, hg, hblue⟩, h0, h1, hR, hG, hB, hA, fun hlast => ?_, fun hmore => ?_⟩
    · exact State.storePixel_endPixel_last (s.idx_last_iff.2 hlast)
    · obtain ⟨hbusy, hdone, hidx⟩ := State.storePixel_endPixel_more (r := r) (g := g) (b := b)
        (not_not.1 (mt s.idx_last_iff.1 hmore))
      exact ⟨hidx, hbusy.trans hb, hdone⟩
  · rw [exec_nop_of_busy hf hb,
      frameStep_of_unwritten hc hnone fun d hd => Option.isSome_iff_ne_none.2 (hbefore d hd), State.raise_eq hf]
    rfl

/-- A host move that ends a frame is a reset step, or the `NOP` step of the last pixel in an unfaulted state (R92). -/
theorem Effect.ends_frame {m : HostMove} {s t : State} (h : Effect m s t) (hb : s.busy = true) (ht : t.busy = false) :
    ∃ p, m = .drive p ∧ (p.rst = true ∨
      (p.rst = false ∧ p.cmd = 0b00#2 ∧ s.fault = none ∧ s.idx.val = Config.pixels - 1 ∧ t.done = true)) := by
  cases h with
  | resets p hm hr => exact ⟨p, hm, .inl hr⟩
  | converted p hm hr hc hf _ r g b _ =>
    have hlast : ¬ s.idx.val + 1 < Config.pixels := fun hmore => by
      rw [(State.storePixel_endPixel_more hmore).1, hb] at ht
      cases ht
    exact ⟨p, hm, .inr ⟨hr, hc, hf, s.idx_last_iff.1 hlast, (State.storePixel_endPixel_last hlast).2.1⟩⟩
  | begins => cases ht
  | stays | raises | converts | answers | writes => simp [hb] at ht

/-- Settles O28: the last pixel's frame step ends the frame, and of the effects of a move only it and a reset do. -/
theorem onlyTheLastPixelOrResetEndsAFrame : Obligations.OnlyTheLastPixelOrResetEndsAFrame := by
  refine ⟨fun s r g b hf hb hlast hp => ?_, fun s t hstep hb ht => ?_⟩
  · exact ⟨_, execNop_of_values hf hb hp, State.storePixel_endPixel_last (s.idx_last_iff.2 hlast)⟩
  · rcases step_effect hstep with ⟨-, rfl⟩ | ⟨m, rest, hm, heff⟩
    · rw [hb] at ht
      cases ht
    · obtain ⟨p, rfl, hends⟩ := heff.ends_frame hb ht
      exact ⟨p, rest, hm, hends⟩

end Sys2Proof.Machine
end

section
/-! PROOFS of the statements about a whole frame (41_frame.md R93, R99). A run is taken apart at its last move; the state
of a frame in flight after `k` frame steps is an invariant of the schedule; the last frame step completes it. -/

namespace Sys2Proof.Machine

/-! ## Runs -/

/-- A step takes its move and no other, whatever its effect. -/
theorem Effect.moves {m : HostMove} {s t : State} (h : Effect m s t) : t.moves = s.moves := by
  cases h with
  | stays => rfl
  | raises | resets | converts | begins | converted | answers | writes => simp

/-- The step that takes a known move has an effect of that move and leaves the moves after it. -/
theorem step_effect_of_move {m : HostMove} {s t : State} {rest : List HostMove} (hm : s.moves = m :: rest)
    (h : step s = .next t) : Effect m (s.takeMove rest) t ∧ t.moves = rest := by
  have heff : Effect m (s.takeMove rest) t := perform_effect ((step_of_move hm).symm.trans h)
  exact ⟨heff, heff.moves⟩

/-- A run of one step more begins with a step. -/
theorem runSteps_succ {n : Nat} {s t : State} :
    runSteps (n + 1) s = .next t ↔ ∃ u, step s = .next u ∧ runSteps n u = .next t := by
  rw [runSteps]
  cases step s <;> simp

/-- The last move of a run over the moves `ms` and then `m`. -/
theorem runSteps_concat {m : HostMove} {rest : List HostMove} {t : State} (ms : List HostMove) :
    ∀ {s : State}, s.moves = ms ++ m :: rest → runSteps (ms.length + 1) s = .next t →
      ∃ u, runSteps ms.length s = .next u ∧ Effect m (u.takeMove rest) t := by
  induction ms with
  | nil =>
    intro s hm hrun
    obtain ⟨u, hstep, hu⟩ := runSteps_succ.1 hrun
    obtain rfl : u = t := Host.Outcome.next.inj hu
    exact ⟨s, rfl, (step_effect_of_move hm hstep).1⟩
  | cons x xs ih =>
    intro s hm hrun
    obtain ⟨v, hstep, hv⟩ := runSteps_succ.1 hrun
    obtain ⟨u, hu, heff⟩ := ih (step_effect_of_move hm hstep).2 hv
    exact ⟨u, runSteps_succ.2 ⟨v, hstep, hu⟩, heff⟩

/-- A step without reset whose ports carry a command runs it (R83). -/
theorem blockStep_of_command {p : Ports} {i : Instr} (hr : p.rst = false) (hd : decodePorts p = .ok i) (s : State) :
    blockStep p s = exec i s := by
  simp only [blockStep, hr, Bool.false_eq_true, if_false, hd]

/-- A schedule of commands alone always answers a next state. -/
theorem runSteps_of_commands {rest : List HostMove} (ps : List Ports) :
    ∀ {s : State}, s.moves = ps.map .drive ++ rest → (∀ q ∈ ps, q.rst = false ∧ ∃ i, decodePorts q = .ok i) →
      ∃ t, runSteps ps.length s = .next t := by
  induction ps with
  | nil => exact fun {s} _ _ => ⟨s, rfl⟩
  | cons q qs ih =>
    intro s hm hq
    obtain ⟨hr, i, hd⟩ := hq q List.mem_cons_self
    obtain ⟨u, hu⟩ := exec_next i (s.takeMove (qs.map .drive ++ rest))
    have hmoves : s.moves = .drive q :: (qs.map .drive ++ rest) := hm
    have hstep : step s = .next u := by
      rw [step_of_move hmoves, perform, blockStep_of_command hr hd, hu]
    obtain ⟨t, ht⟩ := ih (step_effect_of_move hmoves hstep).2 fun q' hq' => hq q' (List.mem_cons_of_mem q hq')
    exact ⟨t, runSteps_succ.2 ⟨u, hstep, ht⟩⟩

/-! ## The moves of a host that lets a frame run -/

theorem letsRun_append {ms ns : List HostMove} : LetsRun (ms ++ ns) ↔ LetsRun ms ∧ LetsRun ns := by
  unfold LetsRun
  simp only [List.mem_append, or_imp]
  exact forall_and

theorem letsRun_drive {p : Ports} : LetsRun [.drive p] ↔ p.rst = false ∧ p.cmd = 0b00#2 := by
  simp [LetsRun]

theorem blockSteps_le_append (ms ns : List HostMove) : blockSteps ms ≤ blockSteps (ms ++ ns) := by
  rw [blockSteps, blockSteps, List.countP_append]
  exact Nat.le_add_right _ _

theorem blockSteps_append_drive (ms : List HostMove) (p : Ports) :
    blockSteps (ms ++ [.drive p]) = blockSteps ms + 1 := by
  simp [blockSteps, HostMove.isStep]

theorem blockSteps_append_access (ms : List HostMove) {m : HostMove} (h : m.isStep = false) :
    blockSteps (ms ++ [m]) = blockSteps ms := by
  simp [blockSteps, h]

theorem State.raise_fault_ne_none (s : State) (c : FaultCause) (i : FaultInfo) : (s.raise c i).fault ≠ none := by
  cases hf : s.fault with
  | none => simp [State.raise_fault_of_none hf]
  | some f => simp [State.raise_fault_of_some hf, hf]

/-- Without a reset a recorded fault stays, so no fault after the move means none before it (R110). -/
theorem Effect.unfaulted_before {m : HostMove} {s t : State} (h : Effect m s t) (hL : LetsRun [m])
    (ht : t.fault = none) : s.fault = none := by
  cases h with
  | stays => exact ht
  | raises c i => exact absurd ht (s.raise_fault_ne_none c i)
  | resets p hm hr =>
    subst hm
    rw [(letsRun_drive.1 hL).1] at hr
    cases hr
  | converts _ _ _ _ hf | begins _ _ _ _ hf | converted _ _ _ _ hf => exact hf
  | answers => simpa using ht
  | writes => simpa using ht

/-- While a frame is in flight, a move that lets it run and meets no fault is a frame step that converts pixel `IDX`, or
an access that hands something back. -/
theorem Effect.in_flight {m : HostMove} {s t : State} (h : Effect m s t) (hL : LetsRun [m]) (hb : s.busy = true)
    (ht : t.fault = none) :
    (∃ p r g b, m = .drive p ∧ FrameHolds s s.idx.val r g b ∧ t = (s.storePixel s.idx.val r g b).endPixel) ∨
    (m.isStep = false ∧ ∃ d, t = s.giveBack d) := by
  cases h with
  | converted p hm _ _ _ _ r g b hp => exact .inl ⟨p, r, g, b, hm, hp, rfl⟩
  | answers d hm => exact .inr ⟨by rcases hm with ⟨sp, a, rfl⟩ | ⟨r, rfl⟩ <;> rfl, d, rfl⟩
  | raises c i => exact absurd ht (s.raise_fault_ne_none c i)
  | stays p _ _ h =>
    rcases h with ⟨f, hf⟩ | ⟨-, hidle⟩
    · simp [hf] at ht
    · simp [hb] at hidle
  | resets p hm hr =>
    subst hm
    simp [(letsRun_drive.1 hL).1] at hr
  | converts _ _ _ _ _ hidle | begins _ _ _ _ _ hidle | writes _ _ _ _ hidle => simp [hb] at hidle

/-- A host access leaves `BUSY` and `DONE` as they are. -/
theorem Effect.status_of_access {m : HostMove} {s t : State} (h : Effect m s t) (hm : m.isStep = false) :
    t.busy = s.busy ∧ t.done = s.done := by
  cases h with
  | stays | raises | answers | writes => simp
  | resets p hd | converts p hd | begins p hd | converted p hd =>
    subst hd
    cases hm

/-! ## The frame in flight (R93, R94) -/

/-- A frame accepted over the FRAME of `s` is in flight in `u`, with its first `k` pixels converted. -/
structure InFlight (s : State) (k : Nat) (u : State) : Prop where
  unfaulted : u.fault = none
  busy      : u.busy = true
  idx       : u.idx.val = k
  frame     : u.frame = s.frame
  converted : ∀ i, i < k → PixelConverted u i

/-- Right after `CONVERT_FRAME` no pixel is converted (R90). -/
theorem inFlight_beginFrame {s u : State} (hf : u.fault = none) (hframe : u.frame = s.frame) :
    InFlight s 0 u.beginFrame where
  unfaulted := hf
  busy := rfl
  idx := rfl
  frame := hframe
  converted := fun i hi => absurd hi (Nat.not_lt_zero i)

/-- The next move taken from the list, and a value handed back, touch nothing of the frame. -/
theorem InFlight.takeMove {s u : State} {k : Nat} (h : InFlight s k u) (rest : List HostMove) :
    InFlight s k (u.takeMove rest) := ⟨h.unfaulted, h.busy, h.idx, h.frame, h.converted⟩

theorem InFlight.giveBack {s u : State} {k : Nat} (h : InFlight s k u) (d : HostData) :
    InFlight s k (u.giveBack d) := ⟨h.unfaulted, h.busy, h.idx, h.frame, h.converted⟩

/-- The frame step of pixel `i` converts it and leaves the conversion of every other pixel. -/
theorem PixelConverted.after_store {u : State} {i j : Nat} {r g b : Byte} (hp : FrameHolds u i r g b)
    (hj : j = i ∨ PixelConverted u j) : PixelConverted (u.storePixel i r g b).endPixel j := by
  have hframe : ∀ a, (u.storePixel i r g b).endPixel.readByte .frame a = u.readByte .frame a := fun a => by
    rw [State.endPixel_readByte, State.storePixel_readFrame]
  by_cases hji : j = i
  · subst hji
    exact ⟨r, g, b, by simpa only [FrameHolds, hframe] using hp, State.endPixel_outputs.2 (u.storePixel_outputs j r g b)⟩
  · obtain ⟨r', g', b', hh, ho⟩ := hj.resolve_left hji
    exact ⟨r', g', b', by simpa only [FrameHolds, hframe] using hh,
      State.endPixel_outputs.2 ((State.storePixel_outputs_other hji).2 ho)⟩

/-- The frame step after `k` pixels leaves `k + 1` pixels converted. -/
theorem InFlight.converted_after_store {s u : State} {k : Nat} {r g b : Byte} (h : InFlight s k u)
    (hp : FrameHolds u u.idx.val r g b) :
    ∀ i, i < k + 1 → PixelConverted (u.storePixel u.idx.val r g b).endPixel i := fun i hi => by
  refine PixelConverted.after_store hp ?_
  rw [h.idx]
  rcases Nat.lt_succ_iff_lt_or_eq.1 hi with hlt | heq
  · exact .inr (h.converted i hlt)
  · exact .inl heq

/-- The frame step of any pixel but the last keeps the frame in flight. -/
theorem InFlight.store {s u : State} {k : Nat} {r g b : Byte} (h : InFlight s k u) (hk : k + 1 < Config.pixels)
    (hp : FrameHolds u u.idx.val r g b) : InFlight s (k + 1) (u.storePixel u.idx.val r g b).endPixel := by
  have hmore : u.idx.val + 1 < Config.pixels := by rw [h.idx]; exact hk
  obtain ⟨hbusy, -, hidx⟩ := State.storePixel_endPixel_more (r := r) (g := g) (b := b) hmore
  exact ⟨by simpa using h.unfaulted, hbusy.trans h.busy, by rw [hidx, h.idx], by simpa using h.frame,
    h.converted_after_store hp⟩

/-- The frame accepted over the FRAME of `s` is complete in `t` (R93). -/
structure Completed (s t : State) : Prop where
  unfaulted : t.fault = none
  idle      : t.busy = false
  done      : t.done = true
  frame     : t.frame = s.frame
  converted : ∀ i, i < Config.pixels → PixelConverted t i

/-- The frame step of the last pixel completes the frame (R92). -/
theorem InFlight.complete {s u : State} {k : Nat} {r g b : Byte} (h : InFlight s k u) (hk : k + 1 = Config.pixels)
    (hp : FrameHolds u u.idx.val r g b) : Completed s (u.storePixel u.idx.val r g b).endPixel := by
  have hlast : ¬ u.idx.val + 1 < Config.pixels := by rw [h.idx]; exact Nat.not_lt.2 hk.ge
  obtain ⟨hbusy, hdone, -⟩ := State.storePixel_endPixel_last (r := r) (g := g) (b := b) hlast
  exact ⟨by simpa using h.unfaulted, hbusy, hdone, by simpa using h.frame,
    fun i hi => h.converted_after_store hp i (hk ▸ hi)⟩

/-- R93's equations on the FRAME at acceptance. -/
theorem Completed.frameResult {s t : State} (h : Completed s t) : FrameResult s t := by
  intro i r g b hi hs
  obtain ⟨r', g', b', ⟨hr, hg, hb⟩, ho⟩ := h.converted i hi
  have hsame : ∀ a, t.readByte .frame a = s.readByte .frame a := fun a => by
    simp only [State.readByte, State.mem, h.frame]
  obtain rfl : r' = r := Option.some.inj (hr.symm.trans ((hsame _).trans hs.1))
  obtain rfl : g' = g := Option.some.inj (hg.symm.trans ((hsame _).trans hs.2.1))
  obtain rfl : b' = b := Option.some.inj (hb.symm.trans ((hsame _).trans hs.2.2))
  exact ho

/-- Every byte of PACKED is one of a converted pixel's. -/
theorem Completed.packed_ne_none {s t : State} (h : Completed s t) {a : Nat} (ha : a < Config.packedBytes) :
    t.readByte .packed a ≠ none := by
  have hi : a / 2 < Config.pixels := by unfold Config.packedBytes at ha; omega
  obtain ⟨r, g, b, -, h0, h1, -⟩ := h.converted (a / 2) hi
  have haddr : a = packedAddr (a / 2) 0 ∨ a = packedAddr (a / 2) 1 := by unfold packedAddr; omega
  rcases haddr with e | e <;> rw [e] <;> simp [h0, h1]

/-- Every byte of PREVIEW is one of a converted pixel's. -/
theorem Completed.preview_ne_none {s t : State} (h : Completed s t) {a : Nat} (ha : a < Config.previewBytes) :
    t.readByte .preview a ≠ none := by
  have hi : a / 4 < Config.pixels := by unfold Config.previewBytes Config.channels at ha; omega
  obtain ⟨r, g, b, -, -, -, hR, hG, hB, hA⟩ := h.converted (a / 4) hi
  have haddr : a = channelAddr (a / 4) 0 ∨ a = channelAddr (a / 4) 1 ∨ a = channelAddr (a / 4) 2 ∨
      a = channelAddr (a / 4) 3 := by unfold channelAddr; omega
  rcases haddr with e | e | e | e <;> rw [e] <;> simp [hR, hG, hB, hA]

/-! ## The schedule of a frame -/

/-- The last move of an unfaulted run of a host that lets a frame run: no fault is recorded before it. -/
theorem letsRun_last_move {m : HostMove} {s t : State} {p : Ports} {ms rest : List HostMove} (hL : LetsRun [m])
    (hm : s.moves = .drive p :: (ms ++ m :: rest)) (hrun : runSteps (ms.length + 2) s = .next t) (ht : t.fault = none) :
    ∃ u, runSteps (ms.length + 1) s = .next u ∧ u.fault = none ∧ Effect m (u.takeMove rest) t := by
  obtain ⟨u, hu, heff⟩ := runSteps_concat (.drive p :: ms) hm hrun
  exact ⟨u, hu, heff.unfaulted_before hL ht, heff⟩

section
variable {s : State} {p : Ports} (hf : s.fault = none) (hb : s.busy = false) (hr : p.rst = false)
  (hc : p.cmd = 0b10#2)
include hf hb hr hc

/-- The accepting step starts the frame. -/
theorem inFlight_of_accept {t : State} {rest : List HostMove} (hm : s.moves = .drive p :: rest)
    (h : step s = .next t) : InFlight s 0 t := by
  rw [step_of_move hm, perform, blockStep_of_command hr (decodePorts_convertFrame hc),
    exec_convertFrame_of_idle (by simpa using hf) (by simpa using hb)] at h
  obtain rfl : _ = t := Host.Outcome.next.inj h
  exact inFlight_beginFrame hf rfl

/-- Before the last frame step the frame is in flight, with one pixel converted for each frame step. -/
theorem inFlight_of_run (ms : List HostMove) :
    ∀ {t : State} {rest : List HostMove}, LetsRun ms → s.moves = .drive p :: (ms ++ rest) →
      runSteps (ms.length + 1) s = .next t → t.fault = none → blockSteps ms < Config.pixels →
      InFlight s (blockSteps ms) t := by
  induction ms using List.reverseRecOn with
  | nil =>
    intro t rest _ hm hrun _ _
    obtain ⟨u, hstep, hu⟩ := runSteps_succ.1 hrun
    obtain rfl : u = t := Host.Outcome.next.inj hu
    exact inFlight_of_accept hf hb hr hc hm hstep
  | append_singleton ms m ih =>
    intro t rest hL hm hrun ht hk
    obtain ⟨hLms, hLm⟩ := letsRun_append.1 hL
    rw [List.append_assoc] at hm
    rw [List.length_append] at hrun
    obtain ⟨u, hu, huf, heff⟩ := letsRun_last_move hLm hm hrun ht
    have before : InFlight s (blockSteps ms) (u.takeMove rest) :=
      (ih hLms hm hu huf (Nat.lt_of_le_of_lt (blockSteps_le_append ms [m]) hk)).takeMove rest
    rcases heff.in_flight hLm before.busy ht with ⟨q, r, g, b, rfl, hp, rfl⟩ | ⟨haccess, d, rfl⟩
    · rw [blockSteps_append_drive] at hk ⊢
      exact before.store hk hp
    · rw [blockSteps_append_access ms haccess]
      exact before.giveBack d

/-- The frame step with which the schedule holds `PIXELS` of them completes the frame. -/
theorem completed_of_last_frameStep {t : State} {q : Ports} {ms rest : List HostMove} (hL : LetsRun (ms ++ [.drive q]))
    (hm : s.moves = .drive p :: (ms ++ .drive q :: rest)) (hrun : runSteps (ms.length + 2) s = .next t)
    (ht : t.fault = none) (hk : blockSteps (ms ++ [.drive q]) = Config.pixels) : Completed s t := by
  obtain ⟨hLms, hLq⟩ := letsRun_append.1 hL
  obtain ⟨u, hu, huf, heff⟩ := letsRun_last_move hLq hm hrun ht
  rw [blockSteps_append_drive] at hk
  have before : InFlight s (blockSteps ms) (u.takeMove rest) :=
    (inFlight_of_run hf hb hr hc ms hLms hm hu huf (hk ▸ Nat.lt_succ_self _)).takeMove rest
  rcases heff.in_flight hLq before.busy ht with ⟨_, r, g, b, -, hp, rfl⟩ | ⟨haccess, -⟩
  · exact before.complete hk hp
  · cases haccess

/-- From the `PIXELS`-th frame step on the block is idle with `DONE = 1` (R99). -/
theorem status_after_frame (ms : List HostMove) :
    ∀ {t : State} {rest : List HostMove}, LetsRun ms → s.moves = .drive p :: (ms ++ rest) →
      runSteps (ms.length + 1) s = .next t → t.fault = none → blockSteps ms = Config.pixels →
      t.busy = false ∧ t.done = true := by
  induction ms using List.reverseRecOn with
  | nil => exact fun _ _ _ _ hk => absurd hk Config.pixels_pos.ne
  | append_singleton ms m ih =>
    intro t rest hL hm hrun ht hk
    obtain ⟨hLms, hLm⟩ := letsRun_append.1 hL
    rw [List.append_assoc] at hm
    rw [List.length_append] at hrun
    cases hstep : m.isStep with
    | true =>
      cases m with
      | drive q =>
        have hdone := completed_of_last_frameStep hf hb hr hc hL hm hrun ht hk
        exact ⟨hdone.idle, hdone.done⟩
      | read | write | readReg | release | writeReg | setParameter => cases hstep
    | false =>
      obtain ⟨u, hu, huf, heff⟩ := letsRun_last_move hLm hm hrun ht
      rw [blockSteps_append_access ms hstep] at hk
      obtain ⟨hbusy, hdone⟩ := heff.status_of_access hstep
      obtain ⟨hidle, hset⟩ := ih hLms hm hu huf hk
      exact ⟨hbusy.trans hidle, hdone.trans hset⟩

end

theorem blockSteps_drives (ps : List Ports) : blockSteps (ps.map .drive) = ps.length := by
  rw [blockSteps, List.countP_map]
  exact List.countP_eq_length.2 fun _ _ => rfl

/-- Settles O51: the frame is in flight before `PIXELS` frame steps and complete from them on; and a schedule of commands
alone always answers a next state. -/
theorem aFrameTakesPixelsSteps : Obligations.AFrameTakesPixelsSteps := by
  refine ⟨fun s t p ms rest hf hb hr hc hL hm hrun ht => ⟨fun hk => ?_, fun hk => ?_⟩,
    fun s p ps rest hf hb hr hc hL hm => ⟨blockSteps_drives ps, ?_⟩⟩
  · exact (inFlight_of_run hf hb hr hc ms hL hm hrun ht hk).busy
  · exact status_after_frame hf hb hr hc ms hL hm hrun ht hk
  · refine runSteps_of_commands (p :: ps) hm fun q hq => ?_
    rcases List.mem_cons.1 hq with rfl | hq
    · exact ⟨hr, _, decodePorts_convertFrame hc⟩
    · obtain ⟨hqr, hqc⟩ := hL q (List.mem_map_of_mem hq)
      exact ⟨hqr, _, decodePorts_nop hqc⟩

/-- Settles O52: the last `NOP` step completes the frame, and a complete frame has R93's bytes and a value everywhere. -/
theorem aCompletedFrameIsTheConversionOfFrame : Obligations.ACompletedFrameIsTheConversionOfFrame := by
  intro s t p q ms rest hf hb _ hr hc hL hk hm hrun ht
  have h : Completed s t := completed_of_last_frameStep hf hb hr hc hL hm hrun ht hk
  exact ⟨h.frameResult, h.frame, ⟨h.unfaulted, h.idle⟩, h.done, fun _ ha => h.packed_ne_none ha,
    fun _ ha => h.preview_ne_none ha⟩

end Sys2Proof.Machine
end

section
/-! PROOFS of the statements about fault entry and host accesses (60_exceptions.md): a fault writes FAULT and nothing else
(R107), and the checks of a host access in their order with its effect (R118). -/

namespace Sys2Proof.Machine

/-! ## Fault entry (R107) -/

/-- A host move that leaves a fault in an unfaulted state has set FAULT and nothing else: of the eight effects only a raise
records one. -/
theorem Effect.fault_entry {m : HostMove} {s t : State} {f : FaultRecord} (h : Effect m s t) (hs : s.fault = none)
    (ht : t.fault = some f) : t = { s with fault := some f } := by
  cases h with
  | raises c i =>
    obtain rfl : ⟨c, i⟩ = f := Option.some.inj ((State.raise_fault_of_none hs c i).symm.trans ht)
    exact State.raise_eq hs c i
  | resets => cases ht
  | stays | converts | begins | converted | answers | writes => simp [hs] at ht

/-- Settles O31: a step without a move changes nothing, and any other has the effect of its move on the state with that
move taken. -/
theorem faultEntryChangesNothingElse : Obligations.FaultEntryChangesNothingElse := by
  intro s t f hstep hs ht
  rcases step_effect hstep with ⟨-, rfl⟩ | ⟨m, rest, hm, heff⟩
  · rw [hs] at ht
    cases ht
  · exact ⟨m, rest, hm, heff.fault_entry hs ht⟩

/-! ## Hazards (R52) -/

theorem hazardous_write (sp : Space) : hazardous sp .write = true := by cases sp <;> rfl

/-- While `BUSY = 1` FRAME is the one space the host may read. -/
theorem hazardous_read {sp : Space} : hazardous sp .read = true ↔ sp ≠ .frame := by
  cases sp <;> simp [hazardous]

/-! ## The checks of a host access, one rule per outcome (R118) -/

theorem hostAccess_of_outside {s : State} {sp : Space} {a : Nat} (ha : spaceSize sp ≤ a) (kind : AccessKind) (k : Out) :
    hostAccess s sp a kind k = .next (s.raise .hostRange (.byte sp a)) := by
  rw [hostAccess, if_neg (Nat.not_lt.2 ha)]

theorem hostAccess_of_hazard {s : State} {sp : Space} {a : Nat} {kind : AccessKind} (ha : a < spaceSize sp)
    (hb : s.busy = true) (hz : hazardous sp kind = true) (k : Out) :
    hostAccess s sp a kind k = .next (s.raise .hostHazard (.access sp a kind)) := by
  rw [hostAccess, if_pos ha, if_pos (by rw [hb, hz]; rfl)]

theorem hostAccess_of_allowed {s : State} {sp : Space} {a : Nat} {kind : AccessKind} (ha : a < spaceSize sp)
    (h : s.busy = false ∨ hazardous sp kind = false) (k : Out) : hostAccess s sp a kind k = k := by
  rw [hostAccess, if_pos ha, if_neg (by simpa [or_iff_not_imp_left] using h)]

/-- The byte of an allowed read is handed back. -/
theorem hostRead_of_value {s : State} {sp : Space} {a : Nat} {x : Byte} (ha : a < spaceSize sp)
    (h : s.busy = false ∨ sp = .frame) (hx : s.readByte sp a = some x) :
    hostRead sp a s = .next (s.giveBack (.byte x)) := by
  rw [hostRead, hostAccess_of_allowed ha (h.imp_right fun hsp => hsp ▸ rfl), hx]

/-- An allowed read of a byte without a value raises `UNWRITTEN_READ`. -/
theorem hostRead_of_none {s : State} {sp : Space} {a : Nat} (ha : a < spaceSize sp)
    (h : s.busy = false ∨ sp = .frame) (hx : s.readByte sp a = none) :
    hostRead sp a s = .next (s.raise .unwrittenRead (.byte sp a)) := by
  rw [hostRead, hostAccess_of_allowed ha (h.imp_right fun hsp => hsp ▸ rfl), hx]

/-- While `BUSY = 0` a write inside the space gives the byte its value. -/
theorem hostWrite_of_idle {s : State} {sp : Space} {a : Nat} (ha : a < spaceSize sp) (hb : s.busy = false) (v : Byte) :
    hostWrite sp a v s = .next (s.writeByte sp a v) :=
  hostAccess_of_allowed ha (.inl hb) _

/-- Settles O34: the outcomes of the checks in their order, each fault raised in an unfaulted state. -/
theorem hostAccessChecksInOrder : Obligations.HostAccessChecksInOrder := by
  intro s sp a v hf
  refine ⟨fun ha => ?range, fun ha hb => ?hazard, fun ha hallowed => ?read, fun ha hb => ?write⟩
  case range =>
    rw [← State.raise_eq hf]
    exact ⟨hostAccess_of_outside ha _ _, hostAccess_of_outside ha _ _⟩
  case hazard =>
    rw [← State.raise_eq hf, ← State.raise_eq hf]
    exact ⟨hostAccess_of_hazard ha hb (hazardous_write sp) _,
      fun hsp => hostAccess_of_hazard ha hb (hazardous_read.2 hsp) _⟩
  case read =>
    rw [← State.raise_eq hf]
    exact ⟨hostRead_of_none ha hallowed, fun _ => hostRead_of_value ha hallowed⟩
  case write =>
    refine ⟨_, hostWrite_of_idle ha hb v, ?_, fun sp' b hother => ?_⟩
    · rw [State.readByte_writeByte, if_pos ⟨rfl, rfl⟩]
    · rw [State.readByte_writeByte, if_neg fun ⟨hsp, hab⟩ => hother ⟨hsp.symm, hab.symm⟩]

end Sys2Proof.Machine
end

section
/-! PROOFS of the statements about the reset step (70_reset_and_hazards.md): what it leaves of each field (R120, R123,
R124), and power-on as the reset of a machine whose memories hold no value (R34). -/

namespace Sys2Proof.Machine

/-! ## The reset step and the memories -/

/-- A reset during a frame leaves no value in an output space (R123). -/
theorem State.resetStep_readOutput_of_busy {s : State} (hb : s.busy = true) {sp : Space} (hsp : sp ≠ .frame) (a : Nat) :
    s.resetStep.readByte sp a = none := by
  cases sp with
  | frame => exact absurd rfl hsp
  | packed | preview => simp [State.readByte, State.mem, hb]

/-- A reset while `BUSY = 0` leaves the output spaces as they are (R124). -/
theorem State.resetStep_outputs_of_idle {s : State} (hb : s.busy = false) :
    s.resetStep.packed = s.packed ∧ s.resetStep.preview = s.preview := by
  simp [hb]

/-- Power-on is the reset of empty memories: every register gets its power-on value whatever it held (R34, R120). -/
theorem State.resetStep_of_empty {s : State} (hframe : s.frame = []) (hpacked : s.packed = [])
    (hpreview : s.preview = []) : { s.resetStep with moves := [], answer := none } = State.reset := by
  simp [State.resetStep, State.reset, hframe, hpacked, hpreview]

/-! ## The step with `rst = 1` -/

/-- With `rst = 1` driven next the step is the reset step, in every state and whatever the command (R120). -/
theorem step_of_reset {s : State} {p : Ports} {rest : List HostMove} (hm : s.moves = .drive p :: rest)
    (hr : p.rst = true) : step s = .next (s.takeMove rest).resetStep :=
  (step_of_move hm).trans (blockStep_reset hr _)

/-- Settles O10: the step is the reset step on the state with the move taken; the flags, the pointer, the registers and
FRAME hold by its definition, the outputs by the two cases of BUSY. -/
theorem resetStepWritesTheResetValues : Obligations.ResetStepWritesTheResetValues := by
  refine ⟨fun s p rest hm hr => ⟨_, step_of_reset hm hr, rfl, rfl, rfl, rfl, rfl, rfl, rfl, rfl, rfl, rfl, rfl,
    fun hb a => ?ended, fun hb => ?idle⟩, fun s => State.resetStep_of_empty⟩
  case ended =>
    have houtput (sp : Space) (hsp : sp ≠ .frame) : (s.takeMove rest).resetStep.readByte sp a = none :=
      State.resetStep_readOutput_of_busy hb hsp a
    exact ⟨houtput .packed (by decide), houtput .preview (by decide)⟩
  case idle => exact State.resetStep_outputs_of_idle (s := s.takeMove rest) hb

end Sys2Proof.Machine
end

section
/-! PROOFS of the statements about the round trip of the encoding (30_encoding.md R60, R67) and the order in which a step
is evaluated (40_pixel.md R83). -/

namespace Sys2Proof

/-! ## Decoding and encoding (R60) -/

/-- A field above the low part of a concatenation is a field of the high part. -/
theorem extractLsb'_append_above {n m len : Nat} (start : Nat) (hi : BitVec n) (lo : BitVec m) :
    (hi ++ lo).extractLsb' (start + m) len = hi.extractLsb' start len := by
  rw [BitVec.extractLsb'_append_eq_of_le (Nat.le_add_left m start), Nat.add_sub_cancel]

/-- The issue word carries every command and pixel port: a port is found by dropping the ports below it. -/
theorem ofIssueWord_issueWord (p : Ports) : Ports.ofIssueWord p.issueWord = { p with rst := false } := by
  simp only [Ports.ofIssueWord, Ports.issueWord, Ports.mk.injEq, true_and]
  refine ⟨?cmd, ?pixR, ?pixG, ?pixB, ?pixA⟩
  case cmd =>
    exact (extractLsb'_append_above 24 _ _).trans <| (extractLsb'_append_above 16 _ _).trans <|
      (extractLsb'_append_above 8 _ _).trans BitVec.extractLsb'_append_eq_left
  case pixR =>
    exact (extractLsb'_append_above 16 _ _).trans <| (extractLsb'_append_above 8 _ _).trans <|
      (extractLsb'_append_above 0 _ _).trans BitVec.extractLsb'_append_eq_right
  case pixG =>
    exact (extractLsb'_append_above 8 _ _).trans <|
      (extractLsb'_append_above 0 _ _).trans BitVec.extractLsb'_append_eq_right
  case pixB => exact (extractLsb'_append_above 0 _ _).trans BitVec.extractLsb'_append_eq_right
  case pixA => exact BitVec.extractLsb'_append_eq_right

/-- A command is read back from the ports that issue it. -/
theorem decodePorts_ports (i : Instr) : decodePorts i.ports = .ok i := by
  cases i with
  | nop => exact decodePorts_nop rfl
  | convertPixel => exact decodePorts_convertPixel rfl
  | convertFrame => exact decodePorts_convertFrame rfl

/-- Commands are issued in a step without reset. -/
theorem Instr.ports_rst (i : Instr) : i.ports.rst = false := by cases i <;> rfl

/-- Settles O1: the issue word gives the ports back, and the ports the command. -/
theorem decodeOfEncodeIsTheCommand : Obligations.DecodeOfEncodeIsTheCommand := by
  intro i _
  have hports : Ports.ofIssueWord i.ports.issueWord = i.ports := by
    rw [ofIssueWord_issueWord, ← i.ports_rst]
  rw [decode, encode, hports, decodePorts_ports]

/-- The four values of the command port, one per row of R60's table. -/
theorem cmd_cases (c : Cmd) : c = 0b00#2 ∨ c = 0b01#2 ∨ c = 0b10#2 ∨ c = 0b11#2 := by revert c; decide

/-- A decoded command has the code that `cmd` carries. -/
theorem cmd_of_decodePorts {p : Ports} {i : Instr} (h : decodePorts p = .ok i) : i.cmd = p.cmd := by
  rcases cmd_cases p.cmd with hc | hc | hc | hc
  · rw [decodePorts_nop hc] at h
    obtain rfl := Except.ok.inj h
    exact hc.symm
  · rw [decodePorts_convertPixel hc] at h
    obtain rfl := Except.ok.inj h
    exact hc.symm
  · rw [decodePorts_convertFrame hc] at h
    obtain rfl := Except.ok.inj h
    exact hc.symm
  · rw [decodePorts_reserved hc] at h
    cases h

/-- Every code but the reserved one decodes to a command. -/
theorem decodePorts_of_not_reserved {p : Ports} (h : p.cmd ≠ 0b11#2) : ∃ i, decodePorts p = .ok i := by
  rcases cmd_cases p.cmd with hc | hc | hc | hc
  · exact ⟨_, decodePorts_nop hc⟩
  · exact ⟨_, decodePorts_convertPixel hc⟩
  · exact ⟨_, decodePorts_convertFrame hc⟩
  · exact absurd hc h

/-- The pixel port is read for `CONVERT_PIXEL` alone (R67). -/
theorem decodePorts_congr {p q : Ports} (h : p.cmd = q.cmd) (hpixel : p.cmd ≠ 0b01#2) :
    decodePorts p = decodePorts q := by
  simp only [decodePorts, ← h, if_neg hpixel]

/-- Settles O3: the decoder looks at the pixel port only for `CONVERT_PIXEL`, and never for which command it is. -/
theorem commandIsExactlyTheCommandBits : Obligations.CommandIsExactlyTheCommandBits := by
  refine fun p q h => ⟨decodePorts_congr h, fun i hi => ⟨cmd_of_decodePorts hi, ?_⟩⟩
  have hq : q.cmd ≠ 0b11#2 := fun hc => by
    rw [decodePorts_reserved (h.trans hc)] at hi
    cases hi
  obtain ⟨j, hj⟩ := decodePorts_of_not_reserved hq
  exact ⟨j, hj, (cmd_of_decodePorts hj).trans h.symm⟩

/-- Settles O4: closed words. -/
theorem writtenOutWordsDecode : Obligations.WrittenOutWordsDecode := by
  unfold Obligations.WrittenOutWordsDecode
  decide

end Sys2Proof

namespace Sys2Proof.Machine

/-! ## The order of a step (R83) -/

/-- A step that carries a command runs it on the state with the move taken. -/
theorem step_of_command {s : State} {p : Ports} {i : Instr} {rest : List HostMove} (hm : s.moves = .drive p :: rest)
    (hr : p.rst = false) (hd : decodePorts p = .ok i) : step s = exec i (s.takeMove rest) :=
  (step_of_move hm).trans (blockStep_of_command hr hd _)

/-- Without reset a recorded fault means no step (log 4). -/
theorem blockStep_of_faulted {p : Ports} {s : State} {f : FaultRecord} (hr : p.rst = false) (hf : s.fault = some f) :
    blockStep p s = .next s := by
  by_cases hc : p.cmd = 0b11#2
  · simp only [blockStep, hr, Bool.false_eq_true, if_false, decodePorts_reserved hc, unlessFaulted_of_some hf]
  · obtain ⟨i, hi⟩ := decodePorts_of_not_reserved hc
    rw [blockStep_of_command hr hi, exec_of_faulted hf]

/-- Any command but `NOP` raises `BUSY_CMD` while `BUSY = 1`. -/
theorem blockStep_of_busy {p : Ports} {s : State} (hr : p.rst = false) (hf : s.fault = none) (hb : s.busy = true)
    (hnop : p.cmd ≠ 0b00#2) (hreserved : p.cmd ≠ 0b11#2) :
    blockStep p s = .next (s.raise .busyCmd (.cmd p.cmd)) := by
  rcases cmd_cases p.cmd with hc | hc | hc | hc
  · exact absurd hc hnop
  · rw [blockStep_of_command hr (decodePorts_convertPixel hc), exec_convertPixel_of_busy hf hb, hc]
  · rw [blockStep_of_command hr (decodePorts_convertFrame hc), exec_convertFrame_of_busy hf hb, hc]
  · exact absurd hc hreserved

/-- Settles O5: the step takes the move and runs the command of its ports; a placed word is the next move. -/
theorem stepRunsTheDecodedCommand : Obligations.StepRunsTheDecodedCommand := by
  refine ⟨fun s p rest i hm hr hd => step_of_command hm hr hd, fun s nbits w i hw => ?_⟩
  have hd : decodePorts (Ports.ofIssueWord (tableWord nbits w)) = .ok i := by
    rw [decodeTableWord] at hw
    split at hw
    · obtain rfl := Option.some.inj hw
      assumption
    · cases hw
  exact step_of_command (s := s.withFetchWord nbits w) rfl rfl hd

/-- Settles O6: one rule of the block's step per case of the order. -/
theorem stepFollowsTheEvaluationOrder : Obligations.StepFollowsTheEvaluationOrder := by
  rintro s p rest t hm rfl
  have unfaulted : s.fault = none → (s.takeMove rest).fault = none := id
  refine ⟨step_of_reset hm, fun hr => ⟨fun f hf => ?_, fun hf => ⟨fun hc => ?_, fun hc hnop hb => ?_,
    fun hc => ?_, fun hc _ => ?_, fun hc _ => ?_⟩⟩⟩
  · exact (step_of_move hm).trans (blockStep_of_faulted hr hf)
  · rw [step_of_move hm, perform, blockStep_reserved hr hc (unfaulted hf), State.raise_eq (unfaulted hf), hc]
  · rw [step_of_move hm, perform, blockStep_of_busy hr (unfaulted hf) hb hnop hc, State.raise_eq (unfaulted hf)]
  · exact step_of_command hm hr (decodePorts_nop hc)
  · exact step_of_command hm hr (decodePorts_convertPixel hc)
  · exact step_of_command hm hr (decodePorts_convertFrame hc)

/-- Settles O7: the model's own choice (log 3). -/
theorem noMoveLeavesTheState : Obligations.NoMoveLeavesTheState := fun _ => step_of_no_move

/-- Settles O8: command by command. -/
theorem everyCommandAnswersANextState : Obligations.EveryCommandAnswersANextState := exec_next

end Sys2Proof.Machine
end

section
/-! PROOFS of the statements about what each command leaves unchanged (40_pixel.md R84, R85; 41_frame.md R90, R91) and
about the reset of a frame in flight and power-on (70_reset_and_hazards.md R123; 10_state.md R34). -/

namespace Sys2Proof.Machine

/-! ## What each command can answer -/

/-- A raise changes FAULT only where none was recorded (log 5). -/
theorem State.raise_fault_cases (s : State) (c : FaultCause) (i : FaultInfo) :
    (s.raise c i).fault = s.fault ∨ s.fault = none := by
  cases hf : s.fault with
  | none => exact .inr rfl
  | some f => exact .inl (by rw [State.raise_fault_of_some hf, hf])

/-- What a command under both guards can do: nothing in a faulted state, `BUSY_CMD` in a busy one, its effect in an idle
one (R83). -/
theorem guarded_cases {s t u : State} {c : Cmd} (h : unlessFaulted s (unlessBusy s c (.next u)) = .next t) :
    (s.fault ≠ none ∧ t = s) ∨ (s.fault = none ∧ s.busy = true ∧ t = s.raise .busyCmd (.cmd c)) ∨
    (s.fault = none ∧ s.busy = false ∧ t = u) := by
  rcases unlessFaulted_next h with ⟨⟨f, hf⟩, rfl⟩ | ⟨hf, h⟩
  · exact .inl ⟨by simp [hf], rfl⟩
  · rcases unlessBusy_next h with ⟨hb, rfl⟩ | ⟨hb, h⟩
    · exact .inr (.inl ⟨hf, hb, rfl⟩)
    · exact .inr (.inr ⟨hf, hb, (Host.Outcome.next.inj h).symm⟩)

/-- Everything `CONVERT_PIXEL` can do. -/
theorem exec_convertPixel_cases {r g b a : Byte} {s t : State} (h : exec (.convertPixel r g b a) s = .next t) :
    (s.fault ≠ none ∧ t = s) ∨
    (s.fault = none ∧ s.busy = true ∧ t = s.raise .busyCmd (.cmd 0b01#2)) ∨
    (s.fault = none ∧ s.busy = false ∧ t = s.setResults r g b) := guarded_cases h

/-- Everything `CONVERT_FRAME` can do. -/
theorem exec_convertFrame_cases {s t : State} (h : exec .convertFrame s = .next t) :
    (s.fault ≠ none ∧ t = s) ∨
    (s.fault = none ∧ s.busy = true ∧ t = s.raise .busyCmd (.cmd 0b10#2)) ∨
    (s.fault = none ∧ s.busy = false ∧ t = s.beginFrame) := guarded_cases h

/-- Everything `NOP` can do. -/
theorem exec_nop_cases {s t : State} (h : exec .nop s = .next t) :
    ((s.fault ≠ none ∨ s.busy = false) ∧ t = s) ∨
    (s.fault = none ∧ s.busy = true ∧ ∃ c, c < 3 ∧ s.readByte .frame (channelAddr s.idx.val c) = none ∧
      (∀ d, d < c → (s.readByte .frame (channelAddr s.idx.val d)).isSome = true) ∧
      t = s.raise .unwrittenRead (.byte .frame (channelAddr s.idx.val c))) ∨
    (s.fault = none ∧ s.busy = true ∧ ∃ r g b, FrameHolds s s.idx.val r g b ∧
      t = (s.storePixel s.idx.val r g b).endPixel) := by
  rcases unlessFaulted_next h with ⟨⟨f, hf⟩, rfl⟩ | ⟨hf, h⟩
  · exact .inl ⟨.inl (by simp [hf]), rfl⟩
  cases hb : s.busy with
  | false =>
    rw [hb, if_neg Bool.false_ne_true] at h
    exact .inl ⟨.inr rfl, (Host.Outcome.next.inj h).symm⟩
  | true =>
    rw [hb, if_pos rfl] at h
    rcases frameStep_cases s with ⟨r, g, b, hp, he⟩ | ⟨c, hc, hnone, hbefore, he⟩
    · exact .inr (.inr ⟨hf, rfl, r, g, b, hp, Host.Outcome.next.inj (h.symm.trans he)⟩)
    · exact .inr (.inl ⟨hf, rfl, c, hc, hnone, hbefore, Host.Outcome.next.inj (h.symm.trans he)⟩)

/-! ## CONVERT_PIXEL (R85, R77) -/

/-- Settles O21: the state itself, a raise in an unfaulted busy state, or the result registers in an
unfaulted idle one. -/
theorem convertPixelFrame : Obligations.ConvertPixelFrame := by
  intro r g b a s t hexec
  rcases exec_convertPixel_cases hexec with ⟨-, rfl⟩ | ⟨hf, hb, rfl⟩ | ⟨hf, hb, rfl⟩
  · simp
  · simp [hf, hb]
  · simp [hf, hb]

/-- The fault `CONVERT_PIXEL` leaves is read from FAULT and `BUSY`, and from no pixel value (R100). -/
theorem fault_of_exec_convertPixel {r g b a : Byte} {s t : State} (h : exec (.convertPixel r g b a) s = .next t) :
    t.fault = if s.busy then (s.raise .busyCmd (.cmd 0b01#2)).fault else s.fault := by
  rcases exec_convertPixel_cases h with ⟨hf, rfl⟩ | ⟨-, hb, rfl⟩ | ⟨-, hb, rfl⟩
  · rw [((t.raise_fault_cases .busyCmd (.cmd 0b01#2)).resolve_right hf), ite_self]
  · rw [if_pos hb]
  · rw [hb, if_neg Bool.false_ne_true, State.setResults_fault]

/-- Settles O22: no rule of the command reads the alpha, and no pixel value stands in the fault it leaves. -/
theorem noPixelValueFaultsAndAlphaIsIgnored : Obligations.NoPixelValueFaultsAndAlphaIsIgnored :=
  ⟨fun _ _ _ _ _ _ => rfl, fun _ _ _ _ _ _ _ _ _ _ _ hexec hexec' =>
    (fault_of_exec_convertPixel hexec).trans (fault_of_exec_convertPixel hexec').symm⟩

/-- A host read of a register that holds a value hands it back (R35). -/
theorem perform_readReg_of_value {s : State} {r : Reg} {d : HostData} (hr : r.hidden = false)
    (hv : s.view r = some d) : perform (.readReg r) s = .next { s with answer := some d } := by
  rw [perform, hostReadReg, hr, if_neg Bool.false_ne_true, hv]
  rfl

/-- A host read of a register without a value raises `UNWRITTEN_READ` with its name (R26). -/
theorem perform_readReg_of_none {s : State} {r : Reg} (hf : s.fault = none) (hr : r.hidden = false)
    (hv : s.view r = none) :
    perform (.readReg r) s = .next { s with fault := some ⟨.unwrittenRead, .register r⟩ } := by
  rw [perform, hostReadReg, hr, if_neg Bool.false_ne_true, hv, State.raise_eq hf]

/-- Settles O23: each register the conversion has set is one with a value. -/
theorem resultsAreReadableInTheNextGap : Obligations.ResultsAreReadableInTheNextGap := by
  intro r g b a s hf hb
  exact ⟨_, exec_convertPixel_of_idle hf hb r g b a, perform_readReg_of_value rfl rfl,
    perform_readReg_of_value rfl rfl, perform_readReg_of_value rfl rfl, perform_readReg_of_value rfl rfl,
    perform_readReg_of_value rfl rfl, perform_readReg_of_value rfl rfl, perform_readReg_of_value rfl rfl⟩

/-! ## CONVERT_FRAME (R90) -/

/-- Settles O30: the state itself, a raise in an unfaulted busy state, or the start of a frame in an
unfaulted idle one. -/
theorem convertFrameFrame : Obligations.ConvertFrameFrame := by
  intro s t hexec
  rcases exec_convertFrame_cases hexec with ⟨-, rfl⟩ | ⟨hf, hb, rfl⟩ | ⟨hf, hb, rfl⟩
  · simp
  · simp [hf, hb]
  · simp [hf, hb]

/-! ## NOP (R84, R91) -/

/-- The frame step leaves every byte of PACKED outside its pixel's two. -/
theorem State.storePixel_readPacked_other {s : State} {i x : Nat} {r g b : Byte} (h0 : x ≠ packedAddr i 0)
    (h1 : x ≠ packedAddr i 1) : (s.storePixel i r g b).readByte .packed x = s.readByte .packed x := by
  rw [State.storePixel_readPacked, if_neg h0, if_neg h1]

/-- The frame step leaves every byte of PREVIEW outside its pixel's four. -/
theorem State.storePixel_readPreview_other {s : State} {i x : Nat} {r g b : Byte}
    (h : ∀ c, c < 4 → x ≠ channelAddr i c) : (s.storePixel i r g b).readByte .preview x = s.readByte .preview x := by
  rw [State.storePixel_readPreview, if_neg (h 0 (by decide)), if_neg (h 1 (by decide)), if_neg (h 2 (by decide)),
    if_neg (h 3 (by decide))]

/-- Settles O26: the state itself, a raise in an unfaulted busy state, or the frame step of pixel `IDX`. -/
theorem nopFrame : Obligations.NopFrame := by
  intro s t hexec
  rcases exec_nop_cases hexec with ⟨-, rfl⟩ | ⟨hf, hb, c, -, -, -, rfl⟩ | ⟨hf, hb, r, g, b, -, rfl⟩
  · simp
  · simp [hf, hb]
  · refine ⟨by simp, by simp, by simp, by simp, by simp, by simp, by simp, by simp, by simp, fun hmore => ?status,
      fun x => by simp, fun x h0 h1 => ?packed, fun x hx => ?preview, by simp [hf, hb]⟩
    case status =>
      obtain ⟨hbusy, hdone, -⟩ := State.storePixel_endPixel_more (r := r) (g := g) (b := b)
        (not_not.1 (mt s.idx_last_iff.1 hmore))
      exact ⟨hbusy, hdone⟩
    case packed => rw [State.endPixel_readByte, State.storePixel_readPacked_other h0 h1]
    case preview => rw [State.endPixel_readByte, State.storePixel_readPreview_other hx]

/-! ## Reset of a frame in flight (R123) and power-on (R34) -/

/-- Settles O11: the reset step leaves no value in an output space, so a read there, with `BUSY = 0` now, faults. -/
theorem resetDuringAFrameDiscardsTheOutputs : Obligations.ResetDuringAFrameDiscardsTheOutputs := by
  intro s p hr hb
  have hnone : ∀ sp a, sp ≠ .frame → s.resetStep.readByte sp a = none := fun sp a hsp =>
    State.resetStep_readOutput_of_busy hb hsp a
  refine ⟨_, blockStep_reset hr s, rfl, rfl, rfl, hnone, fun sp a hsp ha => ?_⟩
  rw [perform, hostRead_of_none ha (.inl rfl) (hnone sp a hsp), State.raise_eq rfl]

/-- Settles O12: the fields of the power-on state, and a read of an empty memory. -/
theorem powerOnState : Obligations.PowerOnState := by
  refine ⟨rfl, rfl, rfl, rfl, ⟨rfl, rfl, rfl, rfl, rfl, rfl⟩, fun sp a => ?_⟩
  cases sp <;> rfl

end Sys2Proof.Machine
end

section
/-! PROOFS of the invariants (10_state.md R26, R28; 41_frame.md R93, R94): every effect of a host move keeps the invariant
of the machine and the progress of a frame, and both hold where a run begins. -/

namespace Sys2Proof.Machine

/-! ## The invariant of the machine -/

/-- What touches none of the invariant's fields keeps it: the next move taken, and a value handed back. -/
theorem Inv.takeMove {s : State} (h : Inv s) (rest : List HostMove) : Inv (s.takeMove rest) := { h with }

theorem Inv.giveBack {s : State} (h : Inv s) (d : HostData) : Inv (s.giveBack d) := { h with }

/-- A write inside a space keeps the canonical form and the bounds of that space (R40). -/
theorem Inv.writeByte {s : State} (h : Inv s) {sp : Space} {a : Nat} (ha : a < spaceSize sp) (v : Byte) :
    Inv (s.writeByte sp a v) := by
  cases sp with
  | frame => exact { h with
      frame_wf := Memory.write_wf h.frame_wf a v
      frame_within := Memory.write_within h.frame_within ha v }
  | packed => exact { h with
      packed_wf := Memory.write_wf h.packed_wf a v
      packed_within := Memory.write_within h.packed_within ha v }
  | preview => exact { h with
      preview_wf := Memory.write_wf h.preview_wf a v
      preview_within := Memory.write_within h.preview_within ha v }

/-- The six writes of a frame step are inside their spaces (R97). -/
theorem Inv.storePixel {s : State} (h : Inv s) {i : Nat} (hi : i < Config.pixels) (r g b : Byte) :
    Inv (s.storePixel i r g b) := by
  have hpacked : ∀ k, k < 2 → packedAddr i k < spaceSize .packed := fun k hk => packedAddr_lt hi hk
  have hpreview : ∀ c, c < 4 → channelAddr i c < spaceSize .preview := fun c hc => channelAddr_lt_preview hi hc
  rw [State.storePixel]
  exact (((((h.writeByte (hpacked 0 (by decide)) _).writeByte (hpacked 1 (by decide)) _).writeByte
    (hpreview 0 (by decide)) _).writeByte (hpreview 1 (by decide)) _).writeByte
    (hpreview 2 (by decide)) _).writeByte (hpreview 3 (by decide)) _

/-- The end of a pixel sets `DONE` only as it clears `BUSY` (R28, R92). -/
theorem Inv.endPixel {s : State} (h : Inv s) (hf : s.fault = none) : Inv s.endPixel := by
  by_cases hmore : s.idx.val + 1 < Config.pixels
  · rw [State.endPixel_of_lt hmore]
    exact { h with }
  · rw [State.endPixel_of_last hmore]
    exact { h with
      not_busy_done := fun hboth => absurd hboth.1 Bool.false_ne_true
      fault_described := fun f hs => absurd (hf.symm.trans hs) (by simp) }

/-- A raised fault that the invariant describes (R101, R102); a fault already recorded stays. -/
theorem Inv.raise {s : State} (h : Inv s) {c : FaultCause} {i : FaultInfo}
    (hc : FaultRecord.consistent s.busy ⟨c, i⟩ = true) : Inv (s.raise c i) := by
  cases hf : s.fault with
  | none =>
    refine { h with fault_described := fun f hs => ?_ }
    obtain rfl : ⟨c, i⟩ = f := Option.some.inj ((State.raise_fault_of_none hf c i).symm.trans hs)
    exact hc
  | some f => rwa [State.raise_fault_of_some hf]

/-- A memory that is emptied or left keeps the canonical form and its bounds. -/
theorem Memory.wf_discard {m : Memory} (h : m.wf) (b : Bool) : Memory.wf (if b then [] else m) := by
  split
  · exact List.Pairwise.nil
  · exact h

theorem Memory.within_discard {m : Memory} {n : Nat} (h : m.within n) (b : Bool) :
    Memory.within (if b then [] else m) n := by
  split
  · exact fun c hc => absurd hc List.not_mem_nil
  · exact h

/-- A reset empties the output spaces or leaves them, and nothing it leaves is at odds (R120). -/
theorem Inv.resetStep {s : State} (h : Inv s) : Inv s.resetStep where
  frame_wf := h.frame_wf
  packed_wf := Memory.wf_discard h.packed_wf s.busy
  preview_wf := Memory.wf_discard h.preview_wf s.busy
  frame_within := h.frame_within
  packed_within := Memory.within_discard h.packed_within s.busy
  preview_within := Memory.within_discard h.preview_within s.busy
  not_busy_done := by simp
  results := .inl ⟨rfl, rfl, rfl, rfl, rfl, rfl⟩
  fault_described := fun f hf => absurd hf (by simp)

/-- Every effect of a host move keeps the invariant. -/
theorem Effect.inv {m : HostMove} {s t : State} (h : Effect m s t) (hs : Inv s) : Inv t := by
  cases h with
  | stays => exact hs
  | raises c i _ hc => exact hs.raise hc
  | resets => exact hs.resetStep
  | converts p =>
    exact { hs with results := .inr ⟨p.pixR, p.pixG, p.pixB, rfl, rfl, rfl, rfl, rfl, rfl⟩ }
  | begins p _ _ _ hf =>
    exact { hs with
      not_busy_done := fun hboth => absurd hboth.2 Bool.false_ne_true
      fault_described := fun f hs => absurd (hf.symm.trans hs) (by simp) }
  | converted p _ _ _ hf _ r g b => exact (hs.storePixel s.idx.isLt r g b).endPixel (by simpa using hf)
  | answers d => exact hs.giveBack d
  | writes sp a v _ _ ha => exact hs.writeByte ha v

/-- Settles O46: with no move left the state is the same, and any other step has an effect of its move. -/
theorem stepKeepsTheInvariant : Obligations.StepKeepsTheInvariant := by
  intro s t hs hstep
  rcases step_effect hstep with ⟨-, rfl⟩ | ⟨m, rest, -, heff⟩
  · exact hs
  · exact heff.inv (hs.takeMove rest)

/-- Settles O47: the memories are empty, the registers hold no value and no fault is recorded. -/
theorem powerOnMeetsTheInvariant : Obligations.PowerOnMeetsTheInvariant where
  frame_wf := List.Pairwise.nil
  packed_wf := List.Pairwise.nil
  preview_wf := List.Pairwise.nil
  frame_within := fun _ hc => absurd hc List.not_mem_nil
  packed_within := fun _ hc => absurd hc List.not_mem_nil
  preview_within := fun _ hc => absurd hc List.not_mem_nil
  not_busy_done := fun hboth => absurd hboth.1 Bool.false_ne_true
  results := .inl ⟨rfl, rfl, rfl, rfl, rfl, rfl⟩
  fault_described := fun _ hf => absurd hf (by simp [State.reset])

/-! ## The progress of a frame (R93, R94) -/

/-- Whether a pixel is converted is read from the memories alone. -/
theorem pixelConverted_congr {s t : State} (h : ∀ sp a, t.readByte sp a = s.readByte sp a) (i : Nat) :
    PixelConverted t i ↔ PixelConverted s i := by
  simp only [PixelConverted, FrameHolds, OutputsAre, h]

/-- Progress is read from the memories, `BUSY` and `IDX` alone. -/
theorem FrameProgress.congr {s t : State} (hs : FrameProgress s) (hbusy : t.busy = s.busy) (hidx : t.idx = s.idx)
    (hread : ∀ sp a, t.readByte sp a = s.readByte sp a) : FrameProgress t := fun hb i hi =>
  (pixelConverted_congr hread i).2 (hs (hbusy.symm.trans hb) i (hidx ▸ hi))

/-- With `BUSY = 0` no frame is in flight. -/
theorem frameProgress_of_idle {s : State} (hb : s.busy = false) : FrameProgress s := fun hbusy =>
  absurd (hb.symm.trans hbusy) Bool.false_ne_true

/-- Right after `CONVERT_FRAME` no pixel is before `IDX` (R90). -/
theorem frameProgress_beginFrame (s : State) : FrameProgress s.beginFrame := fun _ i hi => absurd hi (Nat.not_lt_zero i)

/-- The frame step of pixel `IDX` converts it, and every pixel before it stays converted. -/
theorem FrameProgress.after_store {s : State} {r g b : Byte} (hs : FrameProgress s) (hb : s.busy = true)
    (hp : FrameHolds s s.idx.val r g b) {i : Nat} (hi : i < s.idx.val + 1) :
    PixelConverted (s.storePixel s.idx.val r g b).endPixel i :=
  PixelConverted.after_store hp ((Nat.lt_succ_iff_lt_or_eq.1 hi).symm.imp_right (hs hb i))

/-- Every effect of a host move keeps the progress of a frame. -/
theorem Effect.frameProgress {m : HostMove} {s t : State} (h : Effect m s t) (hs : FrameProgress s) :
    FrameProgress t := by
  cases h with
  | stays => exact hs
  | raises c i => exact hs.congr rfl rfl (s.raise_readByte c i)
  | answers d => exact hs.congr rfl rfl (s.giveBack_readByte d)
  | resets => exact frameProgress_of_idle rfl
  | converts _ _ _ _ _ hb => exact frameProgress_of_idle hb
  | writes _ _ _ _ hb => exact frameProgress_of_idle (by simpa using hb)
  | begins => exact frameProgress_beginFrame s
  | converted p _ _ _ _ hb r g b hp =>
    by_cases hmore : s.idx.val + 1 < Config.pixels
    · intro _ i hi
      rw [(State.storePixel_endPixel_more hmore).2.2] at hi
      exact hs.after_store hb hp hi
    · exact frameProgress_of_idle (State.storePixel_endPixel_last hmore).1

/-- Settles O48: with no move left the state is the same, and any other step has an effect of its move. -/
theorem stepKeepsFrameProgress : Obligations.StepKeepsFrameProgress := by
  intro s t hs hstep
  rcases step_effect hstep with ⟨-, rfl⟩ | ⟨m, rest, -, heff⟩
  · exact hs
  · exact heff.frameProgress (hs.congr rfl rfl (s.takeMove_readByte rest))

/-- Settles O49: at power-on no frame is in flight, and a `CONVERT_FRAME` with `BUSY = 0` starts one or, in a faulted
state, does nothing. -/
theorem frameProgressHoldsAtTheStart : Obligations.FrameProgressHoldsAtTheStart := by
  refine ⟨frameProgress_of_idle rfl, fun s t hb hexec => ?_⟩
  cases hf : s.fault with
  | none =>
    rw [exec_convertFrame_of_idle hf hb] at hexec
    obtain rfl : _ = t := Host.Outcome.next.inj hexec
    exact frameProgress_beginFrame s
  | some f =>
    rw [exec_of_faulted hf] at hexec
    obtain rfl : s = t := Host.Outcome.next.inj hexec
    exact frameProgress_of_idle hb

/-- A host move that ends a frame with `DONE = 1` was the frame step of the last pixel, so every pixel is converted. -/
theorem Effect.completes {m : HostMove} {s t : State} (h : Effect m s t) (hs : FrameProgress s) (hb : s.busy = true)
    (ht : t.busy = false) (hd : t.done = true) :
    (∀ i, i < Config.pixels → PixelConverted t i) ∧ t.frame = s.frame := by
  cases h with
  | converted p _ _ _ _ _ r g b hp =>
    have hlast : ¬ s.idx.val + 1 < Config.pixels := fun hmore => by
      rw [(State.storePixel_endPixel_more hmore).1, hb] at ht
      cases ht
    exact ⟨fun i hi => hs.after_store hb hp (Nat.lt_of_lt_of_le hi (Nat.not_lt.1 hlast)), by simp⟩
  | resets => cases hd
  | begins => cases ht
  | stays | raises | converts | answers | writes => simp [hb] at ht

/-- Settles O50: a step that ends a frame has taken a move, and with `DONE = 1` after it that move completed the
frame. -/
theorem theEndOfAFrameFindsEveryPixelConverted : Obligations.TheEndOfAFrameFindsEveryPixelConverted := by
  intro s t hs hb hstep ht hd
  rcases step_effect hstep with ⟨-, rfl⟩ | ⟨m, rest, -, heff⟩
  · exact absurd (hb.symm.trans ht) (by decide)
  · exact heff.completes (hs.congr rfl rfl (s.takeMove_readByte rest)) hb ht hd

end Sys2Proof.Machine
end

section
/-! PROOFS of the statements about the causes of a fault and its only way out (60_exceptions.md R101, R102, R110) and about
host accesses to bytes and registers (R118; 10_state.md R35; 20_memory.md R49; 70_reset_and_hazards.md R121). -/

namespace Sys2Proof.Machine

/-! ## The cause of a fault (R101, R102) -/

/-- A state with no fault is none with a fault. -/
theorem fault_absurd {s : State} {f : FaultRecord} {P : Prop} (h : s.fault = none) (h' : s.fault = some f) : P := by
  rw [h] at h'
  cases h'

/-- The record of a fault raised in an unfaulted state. -/
theorem eq_of_raise_fault {s : State} {c : FaultCause} {i : FaultInfo} {f : FaultRecord} (hf : s.fault = none)
    (h : (s.raise c i).fault = some f) : f = ⟨c, i⟩ :=
  (Option.some.inj ((State.raise_fault_of_none hf c i).symm.trans h)).symm

/-- A fault that a `NOP` leaves in an unfaulted state: a FRAME byte of pixel `IDX` holds no value. -/
theorem faultCondition_nop {p : Ports} {s t : State} {f : FaultRecord} (hr : p.rst = false) (hc : p.cmd = 0b00#2)
    (h : exec .nop s = .next t) (hs : s.fault = none) (ht : t.fault = some f) : FaultCondition s (.drive p) f := by
  rcases exec_nop_cases h with ⟨-, rfl⟩ | ⟨-, hb, c, hlt, hnone, -, rfl⟩ | ⟨-, -, r, g, b, -, rfl⟩
  · exact fault_absurd hs ht
  · obtain rfl := eq_of_raise_fault hs ht
    exact .inl ⟨p, c, rfl, hr, hc, hb, hlt, hnone, rfl⟩
  · exact fault_absurd hs (by simpa using ht)

/-- A fault that a `CONVERT_PIXEL` leaves in an unfaulted state: the block is busy. -/
theorem faultCondition_convertPixel {p : Ports} {r g b a : Byte} {s t : State} {f : FaultRecord} (hr : p.rst = false)
    (hc : p.cmd = 0b01#2) (h : exec (.convertPixel r g b a) s = .next t) (hs : s.fault = none)
    (ht : t.fault = some f) : FaultCondition s (.drive p) f := by
  rcases exec_convertPixel_cases h with ⟨hf, -⟩ | ⟨-, hb, rfl⟩ | ⟨-, -, rfl⟩
  · exact absurd hs hf
  · obtain rfl := eq_of_raise_fault hs ht
    exact ⟨p, rfl, hr, hb, .inl hc, hc ▸ rfl⟩
  · exact fault_absurd hs ht

/-- A fault that a `CONVERT_FRAME` leaves in an unfaulted state: the block is busy. -/
theorem faultCondition_convertFrame {p : Ports} {s t : State} {f : FaultRecord} (hr : p.rst = false)
    (hc : p.cmd = 0b10#2) (h : exec .convertFrame s = .next t) (hs : s.fault = none) (ht : t.fault = some f) :
    FaultCondition s (.drive p) f := by
  rcases exec_convertFrame_cases h with ⟨hf, -⟩ | ⟨-, hb, rfl⟩ | ⟨-, -, rfl⟩
  · exact absurd hs hf
  · obtain rfl := eq_of_raise_fault hs ht
    exact ⟨p, rfl, hr, hb, .inr hc, hc ▸ rfl⟩
  · exact fault_absurd hs ht

/-- A fault that a step of the block leaves in an unfaulted state. -/
theorem faultCondition_drive {p : Ports} {s t : State} {f : FaultRecord} (h : blockStep p s = .next t)
    (hs : s.fault = none) (ht : t.fault = some f) : FaultCondition s (.drive p) f := by
  cases hr : p.rst with
  | true =>
    rw [blockStep_reset hr] at h
    obtain rfl : _ = t := Host.Outcome.next.inj h
    cases ht
  | false =>
    rcases cmd_cases p.cmd with hc | hc | hc | hc
    · rw [blockStep_of_command hr (decodePorts_nop hc)] at h
      exact faultCondition_nop hr hc h hs ht
    · rw [blockStep_of_command hr (decodePorts_convertPixel hc)] at h
      exact faultCondition_convertPixel hr hc h hs ht
    · rw [blockStep_of_command hr (decodePorts_convertFrame hc)] at h
      exact faultCondition_convertFrame hr hc h hs ht
    · rw [blockStep_reserved hr hc hs] at h
      obtain rfl : _ = t := Host.Outcome.next.inj h
      obtain rfl := eq_of_raise_fault hs ht
      exact ⟨p, rfl, hr, hc, rfl⟩

/-- A fault that a host read of a byte leaves in an unfaulted state. -/
theorem faultCondition_read {sp : Space} {a : Nat} {s t : State} {f : FaultRecord} (h : hostRead sp a s = .next t)
    (hs : s.fault = none) (ht : t.fault = some f) : FaultCondition s (.read sp a) f := by
  rcases hostAccess_next h with ⟨ha, rfl⟩ | ⟨ha, hb, hz, rfl⟩ | ⟨ha, -, hk⟩
  · obtain rfl := eq_of_raise_fault hs ht
    exact .inl ⟨sp, a, rfl, ha, rfl⟩
  · obtain rfl := eq_of_raise_fault hs ht
    exact ⟨hb, .inl ⟨sp, a, rfl, hazardous_read.1 hz, ha, rfl⟩⟩
  · cases hv : s.readByte sp a with
    | some v =>
      rw [hv] at hk
      obtain rfl : s.giveBack (.byte v) = t := Host.Outcome.next.inj hk
      exact fault_absurd hs ht
    | none =>
      rw [hv] at hk
      obtain rfl : s.raise .unwrittenRead (.byte sp a) = t := Host.Outcome.next.inj hk
      obtain rfl := eq_of_raise_fault hs ht
      exact .inr (.inl ⟨sp, a, rfl, ha, hv, rfl⟩)

/-- A fault that a host write of a byte leaves in an unfaulted state. -/
theorem faultCondition_write {sp : Space} {a : Nat} {v : Byte} {s t : State} {f : FaultRecord}
    (h : hostWrite sp a v s = .next t) (hs : s.fault = none) (ht : t.fault = some f) :
    FaultCondition s (.write sp a v) f := by
  rcases hostAccess_next h with ⟨ha, rfl⟩ | ⟨ha, hb, -, rfl⟩ | ⟨-, -, hk⟩
  · obtain rfl := eq_of_raise_fault hs ht
    exact .inr ⟨sp, a, v, rfl, ha, rfl⟩
  · obtain rfl := eq_of_raise_fault hs ht
    exact ⟨hb, .inr (.inl ⟨sp, a, v, rfl, ha, rfl⟩)⟩
  · obtain rfl : s.writeByte sp a v = t := Host.Outcome.next.inj hk
    exact fault_absurd hs (by simpa using ht)

/-- A fault that a host move leaves in an unfaulted state meets its cause's condition. -/
theorem faultCondition_of_perform {m : HostMove} {s t : State} {f : FaultRecord} (h : perform m s = .next t)
    (hs : s.fault = none) (ht : t.fault = some f) : FaultCondition s m f := by
  cases m with
  | drive p => exact faultCondition_drive h hs ht
  | read sp a => exact faultCondition_read h hs ht
  | write sp a v => exact faultCondition_write h hs ht
  | readReg r =>
    rcases hostReadReg_next h with ⟨rfl, hv, hr⟩ | ⟨d, -, -, rfl⟩
    · obtain rfl := eq_of_raise_fault hs ht
      exact .inr (.inr ⟨r, rfl, hr, hv, rfl⟩)
    · exact fault_absurd hs ht
  | release sp =>
    obtain ⟨hb, rfl⟩ := hostRelease_next h
    obtain rfl := eq_of_raise_fault hs ht
    exact ⟨hb, .inr (.inr ⟨sp, rfl, rfl⟩)⟩
  | writeReg | setParameter => cases h

/-- Taking the move changes nothing that a fault's condition is read from. -/
theorem faultCondition_takeMove {s : State} {rest : List HostMove} {m : HostMove} {f : FaultRecord} :
    FaultCondition (s.takeMove rest) m f ↔ FaultCondition s m f := Iff.rfl

/-- Settles O32: a step that leaves a fault has taken a move, and that move meets the condition. -/
theorem everyFaultHasItsCause : Obligations.EveryFaultHasItsCause := by
  intro s t f hstep hs ht
  cases hm : s.moves with
  | nil =>
    rw [step_of_no_move hm] at hstep
    obtain rfl : s = t := Host.Outcome.next.inj hstep
    exact fault_absurd hs ht
  | cons m rest =>
    rw [step_of_move hm] at hstep
    exact ⟨m, rest, rfl, faultCondition_takeMove.1 (faultCondition_of_perform hstep hs ht)⟩

/-! ## The way out of a fault (R110) -/

/-- A recorded fault outlives every host move but a reset step. -/
theorem Effect.keeps_fault {m : HostMove} {s t : State} (h : Effect m s t) (hf : s.fault ≠ none) :
    t.fault = s.fault ∨ ∃ p, m = .drive p ∧ p.rst = true := by
  cases h with
  | resets p hm hr => exact .inr ⟨p, hm, hr⟩
  | stays => exact .inl rfl
  | raises c i => exact .inl ((s.raise_fault_cases c i).resolve_right hf)
  | converts _ _ _ _ hnone | begins _ _ _ _ hnone | converted _ _ _ _ hnone => exact absurd hnone hf
  | answers => exact .inl rfl
  | writes => exact .inl (State.writeByte_fault ..)

/-- Settles O33: what the effects leave of a recorded fault, and the two steps of the block in a faulted state. -/
theorem onlyResetClearsAFault : Obligations.OnlyResetClearsAFault := by
  refine ⟨fun s t hstep hf => ?_, fun s p rest f hm hf => ⟨fun hr => ?_, fun hr => ?_⟩⟩
  · rcases step_effect hstep with ⟨-, rfl⟩ | ⟨m, rest, hm, heff⟩
    · exact .inl rfl
    · rcases heff.keeps_fault hf with hkept | ⟨p, rfl, hr⟩
      · exact .inl hkept
      · exact .inr ⟨p, rest, hm, hr⟩
  · exact (step_of_move hm).trans (blockStep_of_faulted hr hf)
  · exact ⟨_, step_of_reset hm hr, rfl⟩

/-! ## Host accesses to a byte -/

/-- In a faulted state a host access that would raise leaves the state as it is (log 5). -/
theorem State.raise_of_faulted {s : State} (hf : s.fault ≠ none) (c : FaultCause) (i : FaultInfo) :
    s.raise c i = s := by
  obtain ⟨f, hf⟩ := Option.ne_none_iff_exists'.1 hf
  exact State.raise_fault_of_some hf c i

/-- Settles O35: a write and a read while `BUSY = 0`; and in a faulted state the outcomes of the checks, each a
raise. -/
theorem hostReadsWhatItWrote : Obligations.HostReadsWhatItWrote := by
  refine ⟨fun s sp a v hb ha => ?_, fun s sp a v hf => ⟨fun ha => ?range, fun ha hb => ?hazard,
    fun ha hallowed hnone => ?unwritten⟩⟩
  · have hread : (s.writeByte sp a v).readByte sp a = some v := by
      rw [State.readByte_writeByte, if_pos ⟨rfl, rfl⟩]
    have hidle : (s.writeByte sp a v).busy = false := by rw [State.writeByte_busy, hb]
    refine ⟨_, hostWrite_of_idle ha hb v, hostRead_of_value ha (.inl hidle) hread, fun sp' b hother => ?_, ?_⟩
    · rw [State.readByte_writeByte, if_neg fun ⟨hsp, hab⟩ => hother.elim (· hsp.symm) (· hab.symm)]
    · simp
  case range =>
    have hkept : s.raise .hostRange (.byte sp a) = s := State.raise_of_faulted hf _ _
    exact ⟨(hostAccess_of_outside ha _ _).trans (by rw [hkept]), (hostAccess_of_outside ha _ _).trans (by rw [hkept])⟩
  case hazard =>
    have hkept kind : s.raise .hostHazard (.access sp a kind) = s := State.raise_of_faulted hf _ _
    exact ⟨(hostAccess_of_hazard ha hb (hazardous_write sp) _).trans (by rw [hkept]),
      fun hsp => (hostAccess_of_hazard ha hb (hazardous_read.2 hsp) _).trans (by rw [hkept])⟩
  case unwritten =>
    exact (hostRead_of_none ha hallowed hnone).trans (by rw [State.raise_of_faulted hf])

/-- Settles O39: a host read hands something back or raises. -/
theorem hostReadsHaveNoSideEffect : Obligations.HostReadsHaveNoSideEffect := by
  intro s t sp a r h
  have hcases : (∃ c i, t = s.raise c i) ∨ ∃ d, t = s.giveBack d := by
    rcases h with h | h
    · rcases hostRead_next h with ⟨c, i, ht, -⟩ | ⟨v, -, ht⟩
      · exact .inl ⟨c, i, ht⟩
      · exact .inr ⟨_, ht⟩
    · rcases hostReadReg_next h with ⟨ht, -, -⟩ | ⟨d, -, -, ht⟩
      · exact .inl ⟨_, _, ht⟩
      · exact .inr ⟨d, ht⟩
  rcases hcases with ⟨c, i, rfl⟩ | ⟨d, rfl⟩
  · exact ⟨rfl, s.raise_fault_cases c i⟩
  · exact ⟨rfl, .inl rfl⟩

/-! ## Host accesses to a register, and teardown -/

/-- A byte register with a value is handed back, one without raises `UNWRITTEN_READ` with its name (R26). -/
theorem perform_readReg_of_byteRegister {s : State} {r : Reg} {o : Option Byte} (hr : r.hidden = false)
    (hv : s.view r = o.map .byte) :
    (∀ v, o = some v → perform (.readReg r) s = .next { s with answer := some (.byte v) }) ∧
    (o = none → s.fault = none →
      perform (.readReg r) s = .next { s with fault := some ⟨.unwrittenRead, .register r⟩ }) := by
  refine ⟨?_, ?_⟩
  · rintro v rfl
    exact perform_readReg_of_value hr hv
  · rintro rfl hf
    exact perform_readReg_of_none hf hr hv

/-- `RES_WORD` has a value where both bytes have one (R29). -/
theorem State.resWord_of_values {s : State} {h l : Byte} (hh : s.resB0 = some h) (hl : s.resB1 = some l) :
    s.resWord = some (h ++ l) := by
  rw [State.resWord, hh, hl]

/-- `RES_WORD` has no value where one of its bytes has none (R29). -/
theorem State.resWord_of_none {s : State} (h : s.resB0 = none ∨ s.resB1 = none) : s.resWord = none := by
  unfold State.resWord
  rcases h with h | h <;> simp [h]

/-- Settles O36: the status bits always have a value, the six registers are byte registers, and `RES_WORD` is the word
of two of them. -/
theorem hostReadsRegisters : Obligations.HostReadsRegisters := by
  intro s
  refine ⟨rfl, rfl, ?_, fun h l hh hl => ?_, fun hf hnone => ?_⟩
  · simp only [List.forall_mem_cons]
    exact ⟨perform_readReg_of_byteRegister rfl rfl, perform_readReg_of_byteRegister rfl rfl,
      perform_readReg_of_byteRegister rfl rfl, perform_readReg_of_byteRegister rfl rfl,
      perform_readReg_of_byteRegister rfl rfl, perform_readReg_of_byteRegister rfl rfl, by simp⟩
  · have hview : s.view .resWord = some (.word (h ++ l)) := congrArg (Option.map _) (State.resWord_of_values hh hl)
    exact ⟨h ++ l, perform_readReg_of_value rfl hview, BitVec.extractLsb'_append_eq_left,
      BitVec.extractLsb'_append_eq_right⟩
  · exact perform_readReg_of_none hf rfl (congrArg (Option.map _) (State.resWord_of_none hnone))

/-- Settles O37: these moves are refused without a look at the state. -/
theorem hostRegisterWritesAreRefused : Obligations.HostRegisterWritesAreRefused := by
  refine fun s r v => ⟨rfl, ?_, fun p n => rfl⟩
  rintro (rfl | rfl) <;> rfl

/-- Settles O38: the two values of `BUSY`. -/
theorem teardownWhileBusyIsAHazard : Obligations.TeardownWhileBusyIsAHazard := by
  refine fun s sp => ⟨fun hb hf => ?_, fun hb => ?_⟩
  · rw [perform, hostRelease, if_pos hb, State.raise_eq hf]
  · rw [perform, hostRelease, hb, if_neg Bool.false_ne_true]

end Sys2Proof.Machine
end

section
/-! PROOFS of the statements about what changes a field of the state (10_state.md R26 to R30; 20_memory.md R52; 41_frame.md
R96): for each field, the effects of a host move that reach it. -/

namespace Sys2Proof.Machine

/-! ## The status outputs (R27, R28) -/

/-- A host move that changes `BUSY` starts a frame, resets, or ends a frame at its last pixel. -/
theorem Effect.changes_busy {m : HostMove} {s t : State} (h : Effect m s t) (hne : t.busy ≠ s.busy) :
    ∃ p, m = .drive p ∧
      ((t.busy = true ∧ p.rst = false ∧ p.cmd = 0b10#2 ∧ s.fault = none) ∨ (t.busy = false ∧ p.rst = true) ∨
       (t.busy = false ∧ p.rst = false ∧ p.cmd = 0b00#2 ∧ s.idx.val = Config.pixels - 1 ∧ t.done = true)) := by
  cases hb : s.busy with
  | true =>
    have ht : t.busy = false := by simpa [hb] using hne
    obtain ⟨p, hm, hreset | ⟨hr, hc, -, hlast, hd⟩⟩ := h.ends_frame hb ht
    · exact ⟨p, hm, .inr (.inl ⟨ht, hreset⟩)⟩
    · exact ⟨p, hm, .inr (.inr ⟨ht, hr, hc, hlast, hd⟩)⟩
  | false =>
    cases h with
    | begins p hm hr hc hf => exact ⟨p, hm, .inl ⟨rfl, hr, hc, hf⟩⟩
    | converted _ _ _ _ _ hbusy => simp [hb] at hbusy
    | resets => exact absurd hb.symm hne
    | stays | raises | converts | answers | writes => simp at hne

/-- Settles O40: a step that changes `BUSY` has taken a move that does. -/
theorem busyChangesOnlyAtFrameBoundaries : Obligations.BusyChangesOnlyAtFrameBoundaries := by
  intro s t hstep hne
  rcases step_effect hstep with ⟨-, rfl⟩ | ⟨m, rest, hm, heff⟩
  · exact absurd rfl hne
  · obtain ⟨p, rfl, h⟩ := heff.changes_busy hne
    exact ⟨p, rest, hm, h⟩

/-- A host move that changes `DONE` ends a frame at its last pixel, resets, or starts a frame. -/
theorem Effect.changes_done {m : HostMove} {s t : State} (h : Effect m s t) (hne : t.done ≠ s.done) :
    ∃ p, m = .drive p ∧
      ((doneRises s t = true ∧ p.rst = false ∧ p.cmd = 0b00#2 ∧ s.busy = true ∧ s.idx.val = Config.pixels - 1) ∨
       (t.done = false ∧ p.rst = true) ∨ (t.done = false ∧ p.rst = false ∧ p.cmd = 0b10#2 ∧ s.busy = false)) := by
  cases h with
  | converted p hm hr hc _ hb r g b =>
    have hlast : ¬ s.idx.val + 1 < Config.pixels := fun hmore => hne (State.storePixel_endPixel_more hmore).2.1
    have hdone := (State.storePixel_endPixel_last (r := r) (g := g) (b := b) hlast).2.1
    have hs : s.done = false := by simpa [hdone] using hne.symm
    exact ⟨p, hm, .inl ⟨by simp [doneRises, hs, hdone], hr, hc, hb, s.idx_last_iff.1 hlast⟩⟩
  | resets p hm hr => exact ⟨p, hm, .inr (.inl ⟨rfl, hr⟩)⟩
  | begins p hm hr hc _ hb => exact ⟨p, hm, .inr (.inr ⟨rfl, hr, hc, hb⟩)⟩
  | stays | raises | converts | answers | writes => simp at hne

/-- No host move makes `BUSY` and `DONE` both 1. -/
theorem Effect.not_busy_done {m : HostMove} {s t : State} (h : Effect m s t) (hs : ¬ (s.busy = true ∧ s.done = true)) :
    ¬ (t.busy = true ∧ t.done = true) := by
  cases h with
  | converted p _ _ _ _ _ r g b =>
    by_cases hmore : s.idx.val + 1 < Config.pixels
    · obtain ⟨hbusy, hdone, -⟩ := State.storePixel_endPixel_more (r := r) (g := g) (b := b) hmore
      rwa [hbusy, hdone]
    · simp [State.storePixel_endPixel_last hmore]
  | resets | begins => simp
  | stays | raises | converts | answers | writes => simpa using hs

/-- Settles O41: a step that changes `DONE` has taken a move that does. -/
theorem doneChangesOnlyAtFrameBoundaries : Obligations.DoneChangesOnlyAtFrameBoundaries := by
  intro s t hstep
  rcases step_effect hstep with ⟨-, rfl⟩ | ⟨m, rest, hm, heff⟩
  · exact ⟨fun hne => absurd rfl hne, id⟩
  · refine ⟨fun hne => ?_, fun hs => heff.not_busy_done hs⟩
    obtain ⟨p, rfl, h⟩ := heff.changes_done hne
    exact ⟨p, rest, hm, h⟩

/-! ## IDX (R30) -/

/-- A host move that changes `IDX` resets, starts a frame, or converts a pixel other than the last. -/
theorem Effect.changes_idx {m : HostMove} {s t : State} (h : Effect m s t) (hne : t.idx ≠ s.idx) :
    ∃ p, m = .drive p ∧
      ((p.rst = true ∧ t.idx.val = 0) ∨ (p.rst = false ∧ p.cmd = 0b10#2 ∧ s.busy = false ∧ t.idx.val = 0) ∨
       (p.rst = false ∧ p.cmd = 0b00#2 ∧ s.busy = true ∧ s.idx.val ≠ Config.pixels - 1 ∧
        t.idx.val = s.idx.val + 1)) := by
  cases h with
  | resets p hm hr => exact ⟨p, hm, .inl ⟨hr, rfl⟩⟩
  | begins p hm hr hc _ hb => exact ⟨p, hm, .inr (.inl ⟨hr, hc, hb, rfl⟩)⟩
  | converted p hm hr hc _ hb r g b =>
    have hmore : s.idx.val + 1 < Config.pixels := by
      by_contra hlast
      exact hne (State.storePixel_endPixel_last hlast).2.2
    exact ⟨p, hm, .inr (.inr ⟨hr, hc, hb, fun hlast => s.idx_last_iff.2 hlast hmore,
      (State.storePixel_endPixel_more hmore).2.2⟩)⟩
  | stays | raises | converts | answers | writes => simp at hne

/-- Settles O42: a step that changes `IDX` has taken a move that does. -/
theorem idxChangesOnlyAsTheFrameProceeds : Obligations.IdxChangesOnlyAsTheFrameProceeds := by
  intro s t hstep hne
  rcases step_effect hstep with ⟨-, rfl⟩ | ⟨m, rest, hm, heff⟩
  · exact absurd rfl hne
  · obtain ⟨p, rfl, h⟩ := heff.changes_idx hne
    exact ⟨p, rest, hm, h⟩

/-! ## The result registers (R26) -/

/-- Two states hold the same in the six result registers. -/
def SameResults (s t : State) : Prop :=
  t.resB0 = s.resB0 ∧ t.resB1 = s.resB1 ∧ t.resQR = s.resQR ∧ t.resQG = s.resQG ∧ t.resQB = s.resQB ∧
    t.resQA = s.resQA

/-- A host move leaves the result registers, empties them in a reset, or fills them in a `CONVERT_PIXEL`. -/
theorem Effect.results {m : HostMove} {s t : State} (h : Effect m s t) :
    SameResults s t ∨ ∃ p, m = .drive p ∧
      ((p.rst = true ∧ ResultsEmpty t) ∨
       (p.rst = false ∧ p.cmd = 0b01#2 ∧ s.fault = none ∧ s.busy = false ∧ ResultsOf t p.pixR p.pixG p.pixB)) := by
  cases h with
  | resets p hm hr => exact .inr ⟨p, hm, .inl ⟨hr, rfl, rfl, rfl, rfl, rfl, rfl⟩⟩
  | converts p hm hr hc hf hb => exact .inr ⟨p, hm, .inr ⟨hr, hc, hf, hb, rfl, rfl, rfl, rfl, rfl, rfl⟩⟩
  | stays | raises | begins | converted | answers | writes => exact .inl (by simp [SameResults])

/-- Settles O43: a step that changes a result register has taken a move that does. -/
theorem resultRegistersChangeOnlyByConvertPixel : Obligations.ResultRegistersChangeOnlyByConvertPixel := by
  intro s t hstep hne
  rcases step_effect hstep with ⟨-, rfl⟩ | ⟨m, rest, hm, heff⟩
  · exact absurd ⟨rfl, rfl, rfl, rfl, rfl, rfl⟩ hne
  · obtain ⟨p, rfl, h⟩ := heff.results.resolve_left hne
    exact ⟨p, rest, hm, h⟩

/-! ## The output bytes (R52, R96) -/

/-- The address is one of pixel `i`'s two bytes of PACKED or four bytes of PREVIEW. -/
def OutputOf (i : Nat) (sp : Space) (a : Nat) : Prop :=
  (sp = .packed ∧ ∃ k, k < 2 ∧ a = packedAddr i k) ∨ (sp = .preview ∧ ∃ c, c < 4 ∧ a = channelAddr i c)

/-- The frame step of pixel `i` changes none but that pixel's bytes. -/
theorem outputOf_of_storePixel {s : State} {i : Nat} {r g b : Byte} {sp : Space} {a : Nat}
    (hne : (s.storePixel i r g b).endPixel.readByte sp a ≠ s.readByte sp a) : OutputOf i sp a := by
  rw [State.endPixel_readByte] at hne
  cases sp with
  | frame => exact absurd (State.storePixel_readFrame ..) hne
  | packed =>
    by_contra hnot
    exact hne (State.storePixel_readPacked_other (fun h => hnot (.inl ⟨rfl, 0, by decide, h⟩))
      fun h => hnot (.inl ⟨rfl, 1, by decide, h⟩))
  | preview =>
    by_contra hnot
    exact hne (State.storePixel_readPreview_other fun c hc h => hnot (.inr ⟨rfl, c, hc, h⟩))

/-- A host move that changes an output byte resets a frame in flight, converts the byte's pixel, or writes it. -/
theorem Effect.changes_output {m : HostMove} {s t : State} {sp : Space} {a : Nat} (h : Effect m s t)
    (hsp : sp ≠ .frame) (hne : t.readByte sp a ≠ s.readByte sp a) :
    (∃ p, m = .drive p ∧ s.busy = true ∧
      ((p.rst = true ∧ t.readByte sp a = none) ∨ (p.rst = false ∧ p.cmd = 0b00#2 ∧ OutputOf s.idx.val sp a))) ∨
    (s.busy = false ∧ ∃ v, m = .write sp a v ∧ t.readByte sp a = some v) := by
  cases h with
  | resets p hm hr =>
    cases hb : s.busy with
    | true => exact .inl ⟨p, hm, rfl, .inl ⟨hr, State.resetStep_readOutput_of_busy hb hsp a⟩⟩
    | false =>
      obtain ⟨hpacked, hpreview⟩ := State.resetStep_outputs_of_idle hb
      refine absurd ?_ hne
      cases sp <;> simp only [State.readByte, State.mem, State.resetStep_frame, hpacked, hpreview]
  | converted p hm hr hc _ hb r g b => exact .inl ⟨p, hm, hb, .inr ⟨hr, hc, outputOf_of_storePixel hne⟩⟩
  | writes sp' a' v hm hb =>
    rw [State.readByte_writeByte] at hne ⊢
    by_cases hit : sp' = sp ∧ a' = a
    · obtain ⟨rfl, rfl⟩ := hit
      exact .inr ⟨hb, v, hm, if_pos ⟨rfl, rfl⟩⟩
    · exact absurd (if_neg hit) hne
  | stays | raises | converts | begins | answers => simp at hne

/-- Settles O45: a step that changes an output byte has taken a move that does. -/
theorem outputBytesChangeOnlyByTheirCauses : Obligations.OutputBytesChangeOnlyByTheirCauses := by
  intro s t sp a hstep hsp hne
  rcases step_effect hstep with ⟨-, rfl⟩ | ⟨m, rest, hm, heff⟩
  · exact absurd rfl hne
  · rw [← s.takeMove_readByte rest] at hne
    rcases heff.changes_output hsp hne with ⟨p, rfl, hb, h⟩ | ⟨hb, v, rfl, hv⟩
    · exact .inl ⟨p, rest, hm, hb, h⟩
    · exact .inr ⟨hb, v, rest, hm, hv⟩

end Sys2Proof.Machine
end

section
/-! PROOFS of the statements about a loaded frame (70_reset_and_hazards.md R122, R134; 41_frame.md R98) and about what no
command and no access can see: the A bytes of FRAME (R77, R91) and an idle `IDX` (10_state.md R30). -/

namespace Sys2Proof.Machine

/-! ## A loaded frame completes (R122, R134) -/

/-- A run keeps the invariant. -/
theorem Inv.runSteps {t : State} (n : Nat) : ∀ {s : State}, Inv s → runSteps n s = .next t → Inv t := by
  induction n with
  | zero =>
    intro s hs hrun
    obtain rfl : s = t := Host.Outcome.next.inj hrun
    exact hs
  | succ n ih =>
    intro s hs hrun
    obtain ⟨u, hstep, hu⟩ := runSteps_succ.1 hrun
    exact ih (stepKeepsTheInvariant s u hs hstep) hu

/-- Whether FRAME is loaded is read from FRAME alone. -/
theorem FrameLoaded.congr {s t : State} (h : FrameLoaded s) (hframe : t.frame = s.frame) : FrameLoaded t := by
  intro i c hi hc
  have hread : t.readByte .frame (channelAddr i c) = s.readByte .frame (channelAddr i c) := by
    simp only [State.readByte, State.mem, hframe]
  rw [hread]
  exact h i c hi hc

/-- A `NOP` never touches FRAME (R58). -/
theorem frame_of_exec_nop {s t : State} (h : exec .nop s = .next t) : t.frame = s.frame := by
  rcases exec_nop_cases h with ⟨-, rfl⟩ | ⟨-, -, c, -, -, -, rfl⟩ | ⟨-, -, r, g, b, -, rfl⟩
  · rfl
  · rfl
  · simp

/-- Over a loaded FRAME a `NOP` raises no fault (R91). -/
theorem fault_of_exec_nop_of_loaded {s t : State} (hL : FrameLoaded s) (hf : s.fault = none)
    (h : exec .nop s = .next t) : t.fault = none := by
  rcases exec_nop_cases h with ⟨-, rfl⟩ | ⟨-, -, c, hc, hnone, -, -⟩ | ⟨-, -, r, g, b, -, rfl⟩
  · exact hf
  · have hsome := hL s.idx.val c s.idx.isLt hc
    rw [hnone] at hsome
    cases hsome
  · simp [hf]

/-- Over a loaded FRAME a schedule of `NOP` steps meets no fault. -/
theorem runSteps_nops_of_loaded {rest : List HostMove} (ps : List Ports) :
    ∀ {s : State}, s.moves = ps.map .drive ++ rest → LetsRun (ps.map .drive) → FrameLoaded s → s.fault = none →
      ∃ t, runSteps ps.length s = .next t ∧ t.fault = none := by
  induction ps with
  | nil => exact fun {s} _ _ _ hf => ⟨s, rfl, hf⟩
  | cons q qs ih =>
    intro s hm hrun hL hf
    obtain ⟨hr, hc⟩ := hrun q List.mem_cons_self
    obtain ⟨u, hu⟩ := exec_nop_next (s.takeMove (qs.map .drive ++ rest))
    have hmoves : s.moves = .drive q :: (qs.map .drive ++ rest) := hm
    have hstep : step s = .next u := (step_of_command hmoves hr (decodePorts_nop hc)).trans hu
    have hLs : FrameLoaded (s.takeMove (qs.map .drive ++ rest)) := hL.congr rfl
    have huf : u.fault = none := fault_of_exec_nop_of_loaded hLs hf hu
    obtain ⟨t, ht, htf⟩ := ih (step_effect_of_move hmoves hstep).2
      (fun q' hq' => hrun q' (List.mem_cons_of_mem _ hq')) (hLs.congr (frame_of_exec_nop hu)) huf
    exact ⟨t, runSteps_succ.2 ⟨u, hstep, ht⟩, htf⟩

/-- A byte with a value is listed. -/
theorem Memory.mem_of_read {m : Memory} {a : Nat} {v : Byte} (h : m.read a = some v) : (a, v) ∈ m := by
  induction m with
  | nil => cases h
  | cons c m ih =>
    obtain ⟨k, w⟩ := c
    rw [Memory.read] at h
    split at h
    · rename_i hk
      obtain rfl := Option.some.inj h
      exact hk ▸ List.mem_cons_self
    · exact List.mem_cons_of_mem _ (ih h)

/-- A byte with a value is inside its space. -/
theorem Memory.lt_of_read {m : Memory} {n a : Nat} (hm : m.within n) (h : m.read a ≠ none) : a < n := by
  obtain ⟨v, hv⟩ := Option.ne_none_iff_exists'.1 h
  exact hm _ (Memory.mem_of_read hv)

/-- An unfaulted run of `CONVERT_FRAME` and `PIXELS` `NOP` steps completes the frame. -/
theorem completed_of_nops {s t : State} {p : Ports} {ps : List Ports} {rest : List HostMove} (hf : s.fault = none)
    (hb : s.busy = false) (hr : p.rst = false) (hc : p.cmd = 0b10#2) (hrun : LetsRun (ps.map .drive))
    (hm : s.moves = .drive p :: (ps.map .drive ++ rest)) (hlen : ps.length = Config.pixels)
    (ht : runSteps (ps.length + 1) s = .next t) (htf : t.fault = none) : Completed s t := by
  have hsteps : blockSteps (ps.map .drive) = Config.pixels := (blockSteps_drives ps).trans hlen
  rcases List.eq_nil_or_concat ps with rfl | ⟨qs, q, rfl⟩
  · exact absurd hlen Config.pixels_pos.ne
  · have hlast : (qs.concat q).map HostMove.drive = qs.map .drive ++ [.drive q] := by simp
    rw [hlast] at hrun hm hsteps
    rw [List.append_assoc] at hm
    rw [List.length_concat, ← List.length_map HostMove.drive] at ht
    exact completed_of_last_frameStep hf hb hr hc hrun hm ht htf hsteps

/-- From the launch premises the run of `CONVERT_FRAME` and `NOP` steps meets no fault. -/
theorem runSteps_frame_of_loaded {s : State} {p : Ports} {ps : List Ports} {rest : List HostMove} (hf : s.fault = none)
    (hb : s.busy = false) (hL : FrameLoaded s) (hr : p.rst = false) (hc : p.cmd = 0b10#2)
    (hrun : LetsRun (ps.map .drive)) (hm : s.moves = .drive p :: (ps.map .drive ++ rest)) :
    ∃ t, runSteps (ps.length + 1) s = .next t ∧ t.fault = none := by
  have hstep : step s = .next (s.takeMove (ps.map .drive ++ rest)).beginFrame :=
    (step_of_command hm hr (decodePorts_convertFrame hc)).trans (exec_convertFrame_of_idle hf hb)
  have hLs : FrameLoaded (s.takeMove (ps.map .drive ++ rest)).beginFrame := hL.congr rfl
  obtain ⟨t, ht, htf⟩ := runSteps_nops_of_loaded ps rfl hrun hLs hf
  exact ⟨t, runSteps_succ.2 ⟨_, hstep, ht⟩, htf⟩

/-- Settles O53: the run meets no fault, so its last `NOP` step completes the frame, and the invariant bounds the bytes
that hold a value. -/
theorem aLoadedFrameCompletes : Obligations.ALoadedFrameCompletes := by
  intro s p ps rest hinv hf hb hL hr hc hrun hm hlen
  obtain ⟨t, ht, htf⟩ := runSteps_frame_of_loaded hf hb hL hr hc hrun hm
  have hcomplete : Completed s t := completed_of_nops hf hb hr hc hrun hm hlen ht htf
  have hinvt : Inv t := hinv.runSteps _ ht
  rw [hlen] at ht
  exact ⟨t, ht, ⟨htf, hcomplete.idle⟩, hcomplete.done, hcomplete.frame, hcomplete.frameResult,
    fun a => ⟨Memory.lt_of_read hinvt.packed_within, hcomplete.packed_ne_none⟩,
    fun a => ⟨Memory.lt_of_read hinvt.preview_within, hcomplete.preview_ne_none⟩⟩

/-! ## What a command does not read (R77, R91) -/

/-- The same block with another FRAME, other moves to come and another answer. -/
def State.withSurroundings (s : State) (f : Memory) (ms : List HostMove) (a : Option HostData) : State :=
  { s with frame := f, moves := ms, answer := a }

theorem State.storePixel_withSurroundings (s : State) (f : Memory) (ms : List HostMove) (a : Option HostData) (i : Nat)
    (r g b : Byte) : (s.withSurroundings f ms a).storePixel i r g b =
      (s.storePixel i r g b).withSurroundings f ms a := by
  simp only [State.storePixel]
  rfl

theorem State.endPixel_withSurroundings (s : State) (f : Memory) (ms : List HostMove) (a : Option HostData) :
    (s.withSurroundings f ms a).endPixel = s.endPixel.withSurroundings f ms a := by
  by_cases hmore : s.idx.val + 1 < Config.pixels
  · rw [State.endPixel_of_lt hmore]
    exact State.endPixel_of_lt (s := s.withSurroundings f ms a) hmore
  · rw [State.endPixel_of_last hmore]
    exact State.endPixel_of_last (s := s.withSurroundings f ms a) hmore

/-- `NOP` reads no more of FRAME than R, G and B of pixel `IDX`, and neither the moves nor the answer. -/
theorem exec_nop_withSurroundings {s t : State} (h : exec .nop s = .next t) {f : Memory}
    (hread : ∀ c, c < 3 → f.read (channelAddr s.idx.val c) = s.readByte .frame (channelAddr s.idx.val c))
    (ms : List HostMove) (a : Option HostData) :
    exec .nop (s.withSurroundings f ms a) = .next (t.withSurroundings f ms a) := by
  have hread' : ∀ c, c < 3 → (s.withSurroundings f ms a).readByte .frame (channelAddr s.idx.val c) =
      s.readByte .frame (channelAddr s.idx.val c) := hread
  rcases exec_nop_cases h with ⟨hf | hb, rfl⟩ | ⟨hf, hb, c, hc, hnone, hbefore, rfl⟩ | ⟨hf, hb, r, g, b, hp, rfl⟩
  · obtain ⟨f', hf⟩ := Option.ne_none_iff_exists'.1 hf
    exact exec_of_faulted (s := t.withSurroundings f ms a) hf .nop
  · exact exec_nop_of_idle (s := t.withSurroundings f ms a) hb
  · rw [exec_nop_of_busy (s := s.withSurroundings f ms a) hf hb]
    exact frameStep_of_unwritten hc ((hread' c hc).trans hnone) fun d hd => by
      rw [← hbefore d hd]
      exact congrArg Option.isSome (hread' d (hd.trans hc))
  · obtain ⟨hR, hG, hB⟩ := hp
    rw [← State.endPixel_withSurroundings, ← State.storePixel_withSurroundings]
    exact execNop_of_values hf hb ⟨(hread' 0 (by decide)).trans hR, (hread' 1 (by decide)).trans hG,
      (hread' 2 (by decide)).trans hB⟩

/-- `NOP` does the same whatever moves come after it and whatever was handed back before. -/
theorem exec_nop_withMoves {s t : State} (h : exec .nop s = .next t) (ms : List HostMove) (a : Option HostData) :
    exec .nop { s with moves := ms, answer := a } = .next { t with moves := ms, answer := a } := by
  have ht : t.withSurroundings s.frame ms a = { t with moves := ms, answer := a } := by
    rw [← frame_of_exec_nop h]
    rfl
  exact (exec_nop_withSurroundings h (fun _ _ => rfl) ms a).trans (congrArg _ ht)

/-- `NOP` leaves the moves and the answer. -/
theorem moves_answer_of_exec_nop {s t : State} (h : exec .nop s = .next t) :
    t.moves = s.moves ∧ t.answer = s.answer := by
  obtain ⟨-, -, -, -, -, -, hmoves, hanswer, -⟩ := nopFrame s t h
  exact ⟨hmoves, hanswer⟩

/-- Settles O54: `NOP` reads addresses that are not 3 modulo 4, and the other commands read no byte. -/
theorem frameAlphaIsNeverSeen : Obligations.FrameAlphaIsNeverSeen := by
  intro s t f i hsame hexec
  cases i with
  | nop =>
    have hread : ∀ c, c < 3 → f.read (channelAddr s.idx.val c) = s.readByte .frame (channelAddr s.idx.val c) :=
      fun c hc => hsame _ (by unfold channelAddr; omega)
    obtain ⟨hmoves, hanswer⟩ := moves_answer_of_exec_nop hexec
    have ht : t.withSurroundings f s.moves s.answer = { t with frame := f } := by
      rw [← hmoves, ← hanswer]
      rfl
    exact (exec_nop_withSurroundings hexec hread s.moves s.answer).trans (congrArg _ ht)
  | convertPixel r g b a =>
    rcases exec_convertPixel_cases hexec with ⟨hf, rfl⟩ | ⟨hf, hb, rfl⟩ | ⟨hf, hb, rfl⟩
    · obtain ⟨f', hf⟩ := Option.ne_none_iff_exists'.1 hf
      exact exec_of_faulted (s := { t with frame := f }) hf _
    · exact exec_convertPixel_of_busy (s := { s with frame := f }) hf hb r g b a
    · exact exec_convertPixel_of_idle (s := { s with frame := f }) hf hb r g b a
  | convertFrame =>
    rcases exec_convertFrame_cases hexec with ⟨hf, rfl⟩ | ⟨hf, hb, rfl⟩ | ⟨hf, hb, rfl⟩
    · obtain ⟨f', hf⟩ := Option.ne_none_iff_exists'.1 hf
      exact exec_of_faulted (s := { t with frame := f }) hf _
    · exact exec_convertFrame_of_busy (s := { s with frame := f }) hf hb
    · exact exec_convertFrame_of_idle (s := { s with frame := f }) hf hb

/-! ## An idle IDX (R30) -/

/-- A step of an idle block does the same for every value of `IDX`, and one that starts a frame leaves the same
`IDX`. -/
theorem blockStep_idle_idx {p : Ports} {s t : State} (j : Fin Config.pixels) (hb : s.busy = false)
    (h : blockStep p s = .next t) :
    (t.busy = false ∧ blockStep p { s with idx := j } = .next { t with idx := j }) ∨
      blockStep p { s with idx := j } = .next t := by
  cases hr : p.rst with
  | true =>
    rw [blockStep_reset hr] at h ⊢
    exact .inr h
  | false =>
    rcases Option.eq_none_or_eq_some s.fault with hf | ⟨f, hf⟩
    · rcases cmd_cases p.cmd with hc | hc | hc | hc
      · rw [blockStep_of_command hr (decodePorts_nop hc)] at h ⊢
        obtain rfl : s = t := Host.Outcome.next.inj ((exec_nop_of_idle hb).symm.trans h)
        exact .inl ⟨hb, exec_nop_of_idle (s := { s with idx := j }) hb⟩
      · rw [blockStep_of_command hr (decodePorts_convertPixel hc)] at h ⊢
        obtain rfl : _ = t := Host.Outcome.next.inj ((exec_convertPixel_of_idle hf hb ..).symm.trans h)
        exact .inl ⟨hb, exec_convertPixel_of_idle (s := { s with idx := j }) hf hb ..⟩
      · rw [blockStep_of_command hr (decodePorts_convertFrame hc)] at h ⊢
        obtain rfl : _ = t := Host.Outcome.next.inj ((exec_convertFrame_of_idle hf hb).symm.trans h)
        exact .inr (exec_convertFrame_of_idle (s := { s with idx := j }) hf hb)
      · obtain rfl : _ = t := Host.Outcome.next.inj ((blockStep_reserved hr hc hf).symm.trans h)
        exact .inl ⟨hb, blockStep_reserved (s := { s with idx := j }) hr hc hf⟩
    · obtain rfl : s = t := Host.Outcome.next.inj ((blockStep_of_faulted hr hf).symm.trans h)
      exact .inl ⟨hb, blockStep_of_faulted (s := { s with idx := j }) hr hf⟩

/-- An access of the host to an idle block does the same for every value of `IDX`. -/
theorem access_idle_idx {m : HostMove} {s t : State} (j : Fin Config.pixels) (hm : m.isStep = false)
    (hb : s.busy = false) (h : perform m s = .next t) :
    t.busy = false ∧ perform m { s with idx := j } = .next { t with idx := j } := by
  refine ⟨((perform_effect h).status_of_access hm).1.trans hb, ?_⟩
  cases m with
  | drive p => cases hm
  | read sp a =>
    rcases hostAccess_next h with ⟨ha, rfl⟩ | ⟨-, hbusy, -⟩ | ⟨ha, -, hk⟩
    · exact hostAccess_of_outside (s := { s with idx := j }) ha _ _
    · exact absurd (hb.symm.trans hbusy) Bool.false_ne_true
    · cases hv : s.readByte sp a with
      | some v =>
        rw [hv] at hk
        obtain rfl : s.giveBack (.byte v) = t := Host.Outcome.next.inj hk
        exact hostRead_of_value (s := { s with idx := j }) ha (.inl hb) hv
      | none =>
        rw [hv] at hk
        obtain rfl : s.raise .unwrittenRead (.byte sp a) = t := Host.Outcome.next.inj hk
        exact hostRead_of_none (s := { s with idx := j }) ha (.inl hb) hv
  | write sp a v =>
    rcases hostAccess_next h with ⟨ha, rfl⟩ | ⟨-, hbusy, -⟩ | ⟨ha, -, hk⟩
    · exact hostAccess_of_outside (s := { s with idx := j }) ha _ _
    · exact absurd (hb.symm.trans hbusy) Bool.false_ne_true
    · obtain rfl : s.writeByte sp a v = t := Host.Outcome.next.inj hk
      refine (hostWrite_of_idle (s := { s with idx := j }) ha hb v).trans ?_
      cases sp <;> rfl
  | readReg r =>
    rcases hostReadReg_next h with ⟨rfl, hv, hr⟩ | ⟨d, hv, hr, rfl⟩
    · have hview : State.view { s with idx := j } r = none := hv
      rw [perform, hostReadReg, hr, if_neg Bool.false_ne_true, hview]
      rfl
    · exact perform_readReg_of_value (s := { s with idx := j }) hr hv
  | release sp => exact absurd (hb.symm.trans (hostRelease_next h).1) Bool.false_ne_true
  | writeReg | setParameter => cases h

/-- Settles O55: a step of the idle block leaves `IDX` as it found it or sets it, and an access leaves it. -/
theorem idleIdxIsNeverSeen : Obligations.IdleIdxIsNeverSeen := by
  intro s t j m hb h
  have hcases : (t.busy = false ∧ perform m { s with idx := j } = .next { t with idx := j }) ∨
      perform m { s with idx := j } = .next t := by
    cases hm : m.isStep with
    | false => exact .inl (access_idle_idx j hm hb h)
    | true =>
      cases m with
      | drive p => exact blockStep_idle_idx j hb h
      | read | write | readReg | release | writeReg | setParameter => cases hm
  rcases hcases with ⟨hidle, hj⟩ | hsame
  · exact ⟨j, hj, fun hbusy => absurd (hidle.symm.trans hbusy) Bool.false_ne_true⟩
  · exact ⟨t.idx, hsame, fun _ => rfl⟩

end Sys2Proof.Machine
end

section
/-! PROOFS of the statements about the layout of the spaces and their placement (20_memory.md R41 to R44, R50) and about
the parameters (00_scope.md R6). -/

namespace Sys2Proof.Machine

/-! ## Pixel indexes and the bytes of a pixel (R41 to R44) -/

/-- Settles O56: a row is `WIDTH` indexes, and there are `HEIGHT` of them. -/
theorem pixelIndexIsRowMajor : Obligations.PixelIndexIsRowMajor := by
  have hwidth : Config.width = 160 := rfl
  have hheight : Config.height = 128 := rfl
  unfold Obligations.PixelIndexIsRowMajor pixelIndex
  rw [hwidth, hheight, Config.pixels_eq]
  exact ⟨fun x y hx hy => ⟨by omega, by omega, by omega⟩, fun i hi => ⟨by omega, by omega, by omega⟩⟩

/-- Every number below `4 * PIXELS` is the address of a channel of some pixel (R41, R43). -/
theorem exists_channelAddr {a : Nat} (ha : a < Config.channels * Config.pixels) :
    ∃ i c, i < Config.pixels ∧ c < 4 ∧ a = channelAddr i c := by
  unfold Config.channels at ha
  exact ⟨a / 4, a % 4, by omega, Nat.mod_lt _ (by decide), (Nat.div_add_mod a 4).symm⟩

/-- Every number below `2 * PIXELS` is the address of a packed byte of some pixel (R42). -/
theorem exists_packedAddr {a : Nat} (ha : a < 2 * Config.pixels) :
    ∃ i k, i < Config.pixels ∧ k < 2 ∧ a = packedAddr i k :=
  ⟨a / 2, a % 2, by omega, Nat.mod_lt _ (by decide), (Nat.div_add_mod a 2).symm⟩

/-- Settles O57: an address gives its pixel as quotient and its byte as remainder. -/
theorem pixelsTileTheSpaces : Obligations.PixelsTileTheSpaces :=
  ⟨fun _ _ _ _ hc hd => (channelAddr_inj hc hd).1, fun _ _ _ _ hk hl => (packedAddr_inj hk hl).1,
    fun _ => exists_channelAddr, fun _ => exists_channelAddr, fun _ => exists_packedAddr⟩

/-- Settles O58: closed numbers. -/
theorem parametersHaveTheStatedValues : Obligations.ParametersHaveTheStatedValues := by
  unfold Obligations.ParametersHaveTheStatedValues
  decide

/-! ## Placement in a shared address space (R50) -/

/-- Ranges apart share no address. -/
theorem ne_of_rangesApart {base size base' size' a a' : Nat} (h : rangesApart base size base' size' = true)
    (ha : a < size) (ha' : a' < size') : base + a ≠ base' + a' := by
  simp only [rangesApart, Bool.or_eq_true, decide_eq_true_eq] at h
  omega

/-- In a well-formed placement bytes of different spaces have different shared addresses. -/
theorem placeAddr_ne {p : Placement} (h : p.wellFormed = true) {sp sp' : Space} (hsp : sp ≠ sp') {a a' : Nat}
    (ha : a < spaceSize sp) (ha' : a' < spaceSize sp') : placeAddr p sp a ≠ placeAddr p sp' a' := by
  simp only [Placement.wellFormed, Bool.and_eq_true] at h
  obtain ⟨⟨hframePacked, hframePreview⟩, hpackedPreview⟩ := h
  cases sp <;> cases sp'
  case frame.packed => exact ne_of_rangesApart hframePacked ha ha'
  case frame.preview => exact ne_of_rangesApart hframePreview ha ha'
  case packed.preview => exact ne_of_rangesApart hpackedPreview ha ha'
  case packed.frame => exact (ne_of_rangesApart hframePacked ha' ha).symm
  case preview.frame => exact (ne_of_rangesApart hframePreview ha' ha).symm
  case preview.packed => exact (ne_of_rangesApart hpackedPreview ha' ha).symm
  all_goals exact absurd rfl hsp

/-- A shared address lies in a space's range exactly if it is the address of one of its bytes. -/
theorem placeHolds_iff {p : Placement} {sp : Space} {x : Nat} :
    placeHolds p sp x = true ↔ ∃ a, a < spaceSize sp ∧ x = placeAddr p sp a := by
  simp only [placeHolds, placeAddr, Bool.and_eq_true, decide_eq_true_eq]
  constructor
  · exact fun ⟨hle, hlt⟩ => ⟨x - placeBase p sp, by omega, by omega⟩
  · rintro ⟨a, ha, rfl⟩
    exact ⟨by omega, by omega⟩

/-- The address of a byte of one space lies in no other space's range. -/
theorem placeHolds_other {p : Placement} (h : p.wellFormed = true) {sp sp' : Space} (hsp : sp ≠ sp') {a : Nat}
    (ha : a < spaceSize sp) : ¬ placeHolds p sp' (placeAddr p sp a) = true := fun hholds => by
  obtain ⟨a', ha', heq⟩ := placeHolds_iff.1 hholds
  exact placeAddr_ne h hsp ha ha' heq

/-- In a well-formed placement a byte is found at its shared address. -/
theorem locate_placeAddr {p : Placement} (h : p.wellFormed = true) {sp : Space} {a : Nat} (ha : a < spaceSize sp) :
    locate p (placeAddr p sp a) = some (sp, a) := by
  have hholds : placeHolds p sp (placeAddr p sp a) = true := placeHolds_iff.2 ⟨a, ha, rfl⟩
  have hfound : some (sp, placeAddr p sp a - placeBase p sp) = some (sp, a) := by
    rw [placeAddr, Nat.add_sub_cancel_left]
  have hother : ∀ sp', sp ≠ sp' → ¬ placeHolds p sp' (placeAddr p sp a) = true := fun sp' hsp =>
    placeHolds_other h hsp ha
  rw [locate]
  cases sp with
  | frame => exact (if_pos hholds).trans hfound
  | packed =>
    rw [if_neg (hother .frame (by decide)), if_pos hholds]
    exact hfound
  | preview =>
    rw [if_neg (hother .frame (by decide)), if_neg (hother .packed (by decide)), if_pos hholds]
    exact hfound

/-- An accepted platform has a well-formed placement, if it has one. -/
theorem placement_wellFormed_of_platform {q : Platform} {p : Placement} (h : q.wellFormed = true)
    (hp : q.placement = some p) : p.wellFormed = true := by
  rw [Platform.wellFormed, hp, Bool.and_eq_true, Option.all_some] at h
  exact h.2

/-- Settles O59: in a well-formed placement different bytes have different addresses. -/
theorem acceptedPlacementsNameOneByte : Obligations.AcceptedPlacementsNameOneByte := by
  refine ⟨fun p sp a hp ha => locate_placeAddr hp ha, fun q p sp sp' a a' hq hsp ha ha' heq => ?_⟩
  have hnot : ¬ q.wellFormed = true := fun hwf =>
    placeAddr_ne (placement_wellFormed_of_platform hwf hq) hsp ha ha' heq
  exact if_neg hnot

end Sys2Proof.Machine
end

section
/-! PROOFS of the statements about the pseudo-instructions (30_encoding.md R69): what one round of polling does, and how
many rounds `WAIT` is. -/

namespace Sys2Proof.Machine

/-! ## One round of polling -/

/-- `NOP` steps do nothing any more: a fault is recorded, or no frame is in flight. -/
def Stalled (s : State) : Prop := s.fault ≠ none ∨ s.busy = false

theorem not_stalled {s : State} (hf : s.fault = none) (hb : s.busy = true) : ¬ Stalled s := by
  simp [Stalled, hf, hb]

/-- A round leaves of the block what its `NOP` leaves, and answers with `DONE`. -/
theorem pollRound_fields {s u : State} (h : pollRound s = .next u) :
    ∃ t, exec .nop (s.takeMove s.moves) = .next t ∧ u.fault = t.fault ∧ u.busy = t.busy ∧ u.done = t.done ∧
      u.idx = t.idx ∧ u.frame = t.frame ∧ u.answer = some (.bit u.done) := by
  obtain ⟨t, hnop, ht⟩ := pollRound_next s
  obtain rfl := Host.Outcome.next.inj (h.symm.trans ht)
  exact ⟨t, hnop, rfl, rfl, rfl, rfl, rfl, rfl⟩

/-- A round always answers a next state. -/
theorem exists_pollRound (s : State) : ∃ u, pollRound s = .next u := by
  obtain ⟨t, -, ht⟩ := pollRound_next s
  exact ⟨_, ht⟩

theorem pollRound_answer {s u : State} (h : pollRound s = .next u) : u.answer = some (.bit u.done) := by
  obtain ⟨-, -, -, -, -, -, -, hanswer⟩ := pollRound_fields h
  exact hanswer

/-- A round run from the list of moves, whatever moves come after it. -/
theorem runSteps_pollRound {s u : State} (h : pollRound s = .next u) (n : Nat) (ms : List HostMove) :
    runSteps (n + 2) { s with moves := asmNop :: .readReg .done :: ms } = runSteps n { u with moves := ms } := by
  obtain ⟨t, hnop, ht⟩ := pollRound_next s
  obtain rfl := Host.Outcome.next.inj (h.symm.trans ht)
  have hfirst : step { s with moves := asmNop :: .readReg .done :: ms } =
      .next { t with moves := .readReg .done :: ms, answer := none } :=
    (step_of_command rfl rfl (decodePorts_ports .nop)).trans (exec_nop_withMoves hnop _ none)
  rw [runSteps, hfirst]
  rfl

/-- A round of a stalled block leaves it stalled and `DONE` as it is. -/
theorem pollRound_stalled {s u : State} (h : pollRound s = .next u) (hs : Stalled s) : Stalled u ∧ u.done = s.done := by
  obtain ⟨t, hnop, hfault, hbusy, hdone, -⟩ := pollRound_fields h
  rw [Stalled, hfault, hbusy, hdone]
  rcases exec_nop_cases hnop with ⟨-, rfl⟩ | ⟨hf, hb, -⟩ | ⟨hf, hb, -⟩
  · exact ⟨hs, rfl⟩
  · exact absurd hs (not_stalled hf hb)
  · exact absurd hs (not_stalled hf hb)

/-- A round that reads `DONE = 0` leaves a stalled block, or has converted a pixel. -/
theorem pollRound_progress {s u : State} (h : pollRound s = .next u) (hd : u.done = false) :
    Stalled u ∨ u.idx.val = s.idx.val + 1 := by
  obtain ⟨t, hnop, hfault, hbusy, hdone, hidx, -⟩ := pollRound_fields h
  rw [Stalled, hfault, hbusy, hidx]
  rcases exec_nop_cases hnop with ⟨hs, rfl⟩ | ⟨-, -, c, -, -, -, rfl⟩ | ⟨-, -, r, g, b, -, rfl⟩
  · exact .inl hs
  · exact .inl (.inl (State.raise_fault_ne_none _ _ _))
  · by_cases hmore : (s.takeMove s.moves).idx.val + 1 < Config.pixels
    · exact .inr (State.storePixel_endPixel_more hmore).2.2
    · rw [(State.storePixel_endPixel_last hmore).2.1, hd] at hdone
      cases hdone

/-- A round of a frame in flight over a loaded FRAME converts pixel `IDX`. -/
theorem pollRound_of_loaded {s u : State} (h : pollRound s = .next u) (hL : FrameLoaded s) (hf : s.fault = none)
    (hb : s.busy = true) : FrameLoaded u ∧ u.fault = none ∧
      (s.idx.val + 1 < Config.pixels → u.busy = true ∧ u.done = s.done ∧ u.idx.val = s.idx.val + 1) ∧
      (¬ s.idx.val + 1 < Config.pixels → u.done = true) := by
  obtain ⟨t, hnop, hfault, hbusy, hdone, hidx, hframe, -⟩ := pollRound_fields h
  have htf : t.fault = none := fault_of_exec_nop_of_loaded (s := s.takeMove s.moves) (hL.congr rfl) hf hnop
  refine ⟨hL.congr (hframe.trans (frame_of_exec_nop (s := s.takeMove s.moves) hnop)), hfault.trans htf, ?_⟩
  rw [hbusy, hdone, hidx]
  rcases exec_nop_cases hnop with ⟨hs, -⟩ | ⟨-, -, c, -, -, -, rfl⟩ | ⟨-, -, r, g, b, -, rfl⟩
  · exact absurd hs (not_stalled hf hb)
  · exact absurd htf (State.raise_fault_ne_none _ _ _)
  · refine ⟨fun hmore => ?_, fun hlast => ?_⟩
    · rw [← hb]
      exact State.storePixel_endPixel_more (s := s.takeMove s.moves) hmore
    · exact (State.storePixel_endPixel_last (s := s.takeMove s.moves) hlast).2.1

/-! ## The loop of WAIT, round by round -/

theorem asmWaitWithin_of_done {s u : State} (h : pollRound s = .next u) (hd : u.done = true) (n : Nat) :
    asmWaitWithin (n + 1) s = some (asmPoll 1) := by
  simp [asmWaitWithin, h, pollRound_answer h, hd]

theorem asmWaitWithin_of_not_done {s u : State} (h : pollRound s = .next u) (hd : u.done = false) (n : Nat) :
    asmWaitWithin (n + 1) s = (asmWaitWithin n u).map fun ms => asmNop :: .readReg .done :: ms := by
  simp [asmWaitWithin, h, pollRound_answer h, hd]

/-- From `s`, of `k` rounds exactly the last reads `DONE = 1`. -/
def DoneAtRound (k : Nat) (s : State) : Prop :=
  ∀ rest j, 0 < j → j ≤ k → ∃ t, runSteps (2 * j) { s with moves := asmPoll k ++ rest } = .next t ∧
    t.answer = some (.bit (decide (j = k)))

theorem doneAtRound_one {s u : State} (h : pollRound s = .next u) (hd : u.done = true) : DoneAtRound 1 s := by
  intro rest j hpos hle
  obtain rfl : j = 1 := Nat.le_antisymm hle hpos
  refine ⟨_, runSteps_pollRound h 0 rest, ?_⟩
  simp [pollRound_answer h, hd]

theorem doneAtRound_succ {s u : State} {k : Nat} (h : pollRound s = .next u) (hd : u.done = false) (hk : 0 < k)
    (hu : DoneAtRound k u) : DoneAtRound (k + 1) s := by
  intro rest j hpos hle
  obtain ⟨i, rfl⟩ := Nat.exists_eq_add_one.2 hpos
  rcases Nat.eq_zero_or_pos i with rfl | hi
  · refine ⟨_, runSteps_pollRound h 0 (asmPoll k ++ rest), ?_⟩
    simp [pollRound_answer h, hd, hk.ne']
  · obtain ⟨t, ht, hanswer⟩ := hu rest i hi (Nat.le_of_succ_le_succ hle)
    exact ⟨t, (runSteps_pollRound h (2 * i) (asmPoll k ++ rest)).trans ht, by simpa using hanswer⟩

/-- What `WAIT` expands to are rounds of which the last alone reads `DONE = 1`. -/
theorem doneAtRound_of_asmWaitWithin (n : Nat) : ∀ {s : State} {ms : List HostMove}, asmWaitWithin n s = some ms →
    ∃ k, 0 < k ∧ ms = asmPoll k ∧ DoneAtRound k s := by
  induction n with
  | zero => exact fun {s ms} h => absurd h (by simp [asmWaitWithin])
  | succ n ih =>
    intro s ms h
    obtain ⟨u, hround⟩ := exists_pollRound s
    cases hd : u.done with
    | true =>
      rw [asmWaitWithin_of_done hround hd] at h
      exact ⟨1, Nat.one_pos, (Option.some.inj h).symm, doneAtRound_one hround hd⟩
    | false =>
      rw [asmWaitWithin_of_not_done hround hd, Option.map_eq_some_iff] at h
      obtain ⟨ms', hms', rfl⟩ := h
      obtain ⟨k, hk, rfl, hdone⟩ := ih hms'
      exact ⟨k + 1, Nat.succ_pos k, rfl, doneAtRound_succ hround hd hk hdone⟩

/-! ## A WAIT without end -/

/-- From `s` the last of `n` rounds, if there is one, reads `DONE = 0`. -/
def NotDoneAfter (n : Nat) (s : State) : Prop :=
  0 < n → ∀ rest, ∃ t, runSteps (2 * n) { s with moves := asmPoll n ++ rest } = .next t ∧
    t.answer = some (.bit false)

theorem notDoneAfter_succ {s u : State} {n : Nat} (h : pollRound s = .next u) (hd : u.done = false)
    (hu : NotDoneAfter n u) : NotDoneAfter (n + 1) s := by
  intro _ rest
  rcases Nat.eq_zero_or_pos n with rfl | hn
  · exact ⟨_, runSteps_pollRound h 0 rest, (pollRound_answer h).trans (by rw [hd])⟩
  · obtain ⟨t, ht, hanswer⟩ := hu hn rest
    exact ⟨t, (runSteps_pollRound h (2 * n) (asmPoll n ++ rest)).trans ht, hanswer⟩

/-- A stalled block with `DONE = 0` never reads `DONE = 1`. -/
theorem notDoneAfter_of_stalled (n : Nat) : ∀ {s : State}, Stalled s → s.done = false → NotDoneAfter n s := by
  induction n with
  | zero => exact fun _ _ hpos => absurd hpos (Nat.lt_irrefl 0)
  | succ n ih =>
    intro s hs hd
    obtain ⟨u, hround⟩ := exists_pollRound s
    obtain ⟨hstalled, hdone⟩ := pollRound_stalled hround hs
    exact notDoneAfter_succ hround (hdone.trans hd) (ih hstalled (hdone.trans hd))

/-- Where as many rounds as pixels are left do not read `DONE = 1`, no number of rounds does (R99): a round before the
block stalls converts a pixel. -/
theorem notDoneAfter_of_asmWaitWithin (n : Nat) : ∀ {s : State}, asmWaitWithin n s = none →
    Config.pixels ≤ n + s.idx.val → ∀ k, NotDoneAfter k s := by
  induction n with
  | zero => exact fun {s} _ hle => absurd s.idx.isLt (by omega)
  | succ n ih =>
    intro s h hle k
    obtain ⟨u, hround⟩ := exists_pollRound s
    cases hd : u.done with
    | true =>
      rw [asmWaitWithin_of_done hround hd] at h
      cases h
    | false =>
      rw [asmWaitWithin_of_not_done hround hd, Option.map_eq_none_iff] at h
      cases k with
      | zero => exact fun hpos => absurd hpos (Nat.lt_irrefl 0)
      | succ k =>
        refine notDoneAfter_succ hround hd ?_
        rcases pollRound_progress hround hd with hstalled | hidx
        · exact notDoneAfter_of_stalled k hstalled hd
        · exact ih h (by omega) k

/-! ## WAIT over a loaded FRAME -/

/-- A frame in flight over a loaded FRAME is waited for in as many rounds as pixels are left. -/
theorem asmWaitWithin_of_loaded (n : Nat) : ∀ {s : State}, FrameLoaded s → s.fault = none → s.busy = true →
    s.done = false → Config.pixels ≤ n + s.idx.val →
      asmWaitWithin n s = some (asmPoll (Config.pixels - s.idx.val)) := by
  induction n with
  | zero => exact fun {s} _ _ _ _ hle => absurd s.idx.isLt (by omega)
  | succ n ih =>
    intro s hL hf hb hd hle
    obtain ⟨u, hround⟩ := exists_pollRound s
    obtain ⟨huL, huf, hmore, hlast⟩ := pollRound_of_loaded hround hL hf hb
    by_cases hlt : s.idx.val + 1 < Config.pixels
    · obtain ⟨hub, hud, hidx⟩ := hmore hlt
      have hcount : Config.pixels - s.idx.val = Config.pixels - u.idx.val + 1 := by omega
      rw [asmWaitWithin_of_not_done hround (hud.trans hd), ih huL huf hub (hud.trans hd) (by omega), hcount]
      rfl
    · have hcount : Config.pixels - s.idx.val = 1 := by
        have := s.idx.isLt
        omega
      rw [asmWaitWithin_of_done hround (hlast hlt), hcount]

/-! ## The lists of moves -/

theorem asmPoll_length (n : Nat) : (asmPoll n).length = 2 * n := by
  induction n with
  | zero => rfl
  | succ n ih => rw [asmPoll, List.length_cons, List.length_cons, ih, Nat.mul_succ]

/-- Round `k` of a polling loop is a `NOP` step and a read of `DONE`. -/
theorem asmPoll_round (n : Nat) : ∀ {k : Nat}, k < n →
    (asmPoll n)[2 * k]? = some asmNop ∧ (asmPoll n)[2 * k + 1]? = some (.readReg .done) := by
  induction n with
  | zero => exact fun hk => absurd hk (Nat.not_lt_zero _)
  | succ n ih =>
    intro k hk
    cases k with
    | zero => exact ⟨rfl, rfl⟩
    | succ k => exact ih (Nat.lt_of_succ_lt_succ hk)

theorem asmFill_length (sp : Space) (v : Byte) : (asmFill sp v).length = spaceSize sp := by
  rw [asmFill, List.length_map, List.length_range]

/-- Move `a` of `FILL` writes address `a`. -/
theorem asmFill_getElem {sp : Space} {a : Nat} (ha : a < spaceSize sp) (v : Byte) :
    (asmFill sp v)[a]? = some (.write sp a v) := by
  rw [asmFill, List.getElem?_map, List.getElem?_range ha, Option.map_some]

/-- Settles O60: `WAIT` round by round, the two waits over a loaded FRAME by the pixels left, and the lists by their
positions. -/
theorem pseudoInstructionsExpand : Obligations.PseudoInstructionsExpand := by
  refine ⟨fun s ms h => ?expansion, fun s h rest n hn => ?noExpansion, fun s hL hf hb hd => ?inFlight,
    fun s t hL hf hb h => ?accepted, fun n => ⟨asmPoll_length n, fun k => asmPoll_round n⟩,
    fun sp v a => ⟨fun ha => asmFill_getElem ha v, asmFill_length sp v⟩, fun i r g b a => rfl⟩
  case expansion =>
    obtain ⟨n, hn, rfl, hdone⟩ := doneAtRound_of_asmWaitWithin Config.pixels h
    exact ⟨n, hn, rfl, hdone⟩
  case noExpansion =>
    exact notDoneAfter_of_asmWaitWithin Config.pixels h (Nat.le_add_right _ _) n hn rest
  case inFlight => exact asmWaitWithin_of_loaded Config.pixels hL hf hb hd (Nat.le_add_right _ _)
  case accepted =>
    obtain rfl := Host.Outcome.next.inj ((exec_convertFrame_of_idle hf hb).symm.trans h)
    exact asmWaitWithin_of_loaded Config.pixels (hL.congr rfl) hf rfl rfl (Nat.le_add_right _ _)

end Sys2Proof.Machine
end
